-- ==== Sys2Proof/Word.lean ====
section
/-! DEFINITION. The words of the PWM register encoder: the widths that spec/ names, and nothing else. -/

namespace Sys2Proof

/-- One 8-bit register cell of the target, and one payload byte (R7, R30). -/
abbrev Byte := BitVec 8

/-- A 16-bit field: the operand fields `A` and `B` of a command, a phase offset, a scale number (R6, R50). -/
abbrev Half := BitVec 16

/-- The 32-bit duty-cycle result field `RSP.DUTY` (R6 `RESULT_W`, R17). -/
abbrev DutyWord := BitVec 32

/-- One 48-bit command word, the block's "instruction" (R6 `CMD_W`, R50). -/
abbrev CommandWord := BitVec 48

/-- One 88-bit response word (R6 `RSP_W`, R56). -/
abbrev ResponseWord := BitVec 88

end Sys2Proof
end

