-- ==== Sys2Proof/Syntax.lean ====
section
/-! DEFINITION. The six commands of spec/opcode_table.json, one constructor per row, with the operands of R51: a channel
number, a duty cycle, a phase offset, a scale number and a raw register pair are the INTEGERS the fields stand for
(`zext`, `sext`); the bit fields themselves appear only in Decode.lean. -/

namespace Sys2Proof

/-- The command set PWMENC-1 (R52). -/
inductive Instr
  /-- INIT: initialise the calibration table (R65). -/
  | init
  /-- CFG ch, off, S: configure one channel (R66). -/
  | cfg (ch : Nat) (off : Int) (scale : Nat)
  /-- ENC ch, duty: encode for one channel, without writing the target (R89). -/
  | enc (ch : Nat) (duty : Int)
  /-- DEC ch, raw: decode two register bytes for one channel, without reading the target (R90). -/
  | dec (ch : Nat) (raw : Nat)
  /-- SET ch, duty: encode and write the payload to the target (R95). -/
  | set (ch : Nat) (duty : Int)
  /-- GET ch: read the ON-point pair from the target and decode it (R96). -/
  | get (ch : Nat)
deriving DecidableEq, Repr

end Sys2Proof
end

