-- ==== Sys2Proof/WellFormed.lean ====
section
/-! DEFINITION. When a command's operands fit their fields (the operand ranges of R51 and R62). Channels 16 to 255 are
well formed: they are encodable, and refused by the machine (R51, R111). -/

namespace Sys2Proof

/-- `ch = zext_8(CH)`: 0 to 255 (R51). -/
def channelFits (ch : Nat) : Bool := ch < 256

/-- `duty` and `off` are `sext_16` of their field: -32768 to 32767 (R51). -/
def signedFits (v : Int) : Bool := -32768 ≤ v && v ≤ 32767

/-- `S` and `raw` are `zext_16` of their field: 0 to 65535 (R51). `S = 0` is well formed and refused (R66). -/
def unsignedFits (v : Nat) : Bool := v < 65536

/-- Every operand is one its field can hold (R51, R62). -/
def Instr.wellFormed : Instr → Bool
  | .init => true
  | .cfg ch off scale => channelFits ch && signedFits off && unsignedFits scale
  | .enc ch duty => channelFits ch && signedFits duty
  | .dec ch raw => channelFits ch && unsignedFits raw
  | .set ch duty => channelFits ch && signedFits duty
  | .get ch => channelFits ch

end Sys2Proof
end

