-- ==== Sys2Proof/Decode.lean ====
section
/-! DEFINITION. The command word (R50 to R55): its fields, the decoder (total on every 48-bit word, rejecting an illegal
one by name), the match and mask table of R53, and the encoder. -/

namespace Sys2Proof

/-- Bits [47:44] (R50). -/
def opcField (w : CommandWord) : BitVec 4 := w.extractLsb' 44 4

/-- Bits [43:40], reserved, must be 0 (R50). -/
def rsvField (w : CommandWord) : BitVec 4 := w.extractLsb' 40 4

/-- Bits [39:32], the channel (R50). -/
def chField (w : CommandWord) : Byte := w.extractLsb' 32 8

/-- Bits [31:16], the first operand (R50). -/
def aField (w : CommandWord) : Half := w.extractLsb' 16 16

/-- Bits [15:0], the second operand (R50). -/
def bField (w : CommandWord) : Half := w.extractLsb' 0 16

/-- The command word of its five fields (R50). -/
def packCommand (opc rsv : BitVec 4) (ch : Byte) (a b : Half) : CommandWord := opc ++ (rsv ++ (ch ++ (a ++ b)))

/-- Why a word is illegal (R54). -/
inductive Illegal
  /-- `OPC` is 0x0 or 0x7 to 0xF. -/
  | opcode
  /-- `RSV` is not 0. -/
  | reserved
  /-- A must-be-zero field of the command is not 0. -/
  | mustBeZero
deriving DecidableEq, Repr

/-- The one meaning R53 and R54 give a word (R55). -/
inductive Decoded
  | command (i : Instr)
  | illegal (why : Illegal)
deriving DecidableEq, Repr

/-- A command whose must-be-zero fields are checked: the command, or illegal (R54). -/
def requireZero (zero : Bool) (i : Instr) : Decoded :=
  if zero then .command i else .illegal .mustBeZero

/-- Decoding, total, reading no state (R52 to R55). The operands are those of R51. -/
def decode (w : CommandWord) : Decoded :=
  if rsvField w ≠ 0 then .illegal .reserved
  else match (opcField w).toNat with
    | 1 => requireZero (chField w == 0 && aField w == 0 && bField w == 0) .init
    | 2 => .command (.cfg (chField w).toNat (aField w).toInt (bField w).toNat)
    | 3 => requireZero (bField w == 0) (.enc (chField w).toNat (aField w).toInt)
    | 4 => requireZero (aField w == 0) (.dec (chField w).toNat (bField w).toNat)
    | 5 => requireZero (bField w == 0) (.set (chField w).toNat (aField w).toInt)
    | 6 => requireZero (aField w == 0 && bField w == 0) (.get (chField w).toNat)
    | _ => .illegal .opcode

/-- The command of a word, if it is one. -/
def Decoded.command? : Decoded → Option Instr
  | .command i => some i
  | .illegal _ => none

/-- Bits of the opcode table's row to the command word: a command is one 48-bit word, so the table's bit numbers are the
word's own; what stands above `nbits` is 0. -/
def tableWord (nbits w : Nat) : CommandWord := BitVec.ofNat 48 (w % 2 ^ nbits)

/-- The instruction the decoder reads from the table's bits. -/
def decodeTableWord (nbits w : Nat) : Option Instr := (decode (tableWord nbits w)).command?

/-- One row of the decoder's table in R53. -/
structure TableRow where
  mask    : CommandWord
  pattern : CommandWord
deriving DecidableEq, Repr

/-- The row of R53 that a command's words match. -/
def Instr.row : Instr → TableRow
  | .init => ⟨0xFFFFFFFFFFFF, 0x100000000000⟩
  | .cfg _ _ _ => ⟨0xFF0000000000, 0x200000000000⟩
  | .enc _ _ => ⟨0xFF000000FFFF, 0x300000000000⟩
  | .dec _ _ => ⟨0xFF00FFFF0000, 0x400000000000⟩
  | .set _ _ => ⟨0xFF000000FFFF, 0x500000000000⟩
  | .get _ => ⟨0xFF00FFFFFFFF, 0x600000000000⟩

/-- The six rows of R53, in the table's order. -/
def tableRows : List TableRow :=
  [Instr.init.row, (Instr.cfg 0 0 0).row, (Instr.enc 0 0).row, (Instr.dec 0 0).row, (Instr.set 0 0).row, (Instr.get 0).row]

/-- `(W & mask) == match` (R53). -/
def TableRow.matchesWord (r : TableRow) (w : CommandWord) : Bool := w &&& r.mask == r.pattern

/-- The word of a command (R53; the encodings of R65, R66, R89, R90, R95 and R96). An operand outside its field's range is
cut to the field. -/
def encode : Instr → CommandWord
  | .init => packCommand 1 0 0 0 0
  | .cfg ch off scale => packCommand 2 0 (BitVec.ofNat 8 ch) (BitVec.ofInt 16 off) (BitVec.ofNat 16 scale)
  | .enc ch duty => packCommand 3 0 (BitVec.ofNat 8 ch) (BitVec.ofInt 16 duty) 0
  | .dec ch raw => packCommand 4 0 (BitVec.ofNat 8 ch) 0 (BitVec.ofNat 16 raw)
  | .set ch duty => packCommand 5 0 (BitVec.ofNat 8 ch) (BitVec.ofInt 16 duty) 0
  | .get ch => packCommand 6 0 (BitVec.ofNat 8 ch) 0 0

end Sys2Proof
end

