-- ==== Sys2Proof/Config.lean ====
section
/-! DEFINITION. What is fixed for the machine and is not state: the parameters of R5 and R6, and the FREE VALUES that
spec/ leaves open. A free value is an opaque constant: no proof can see what it is. -/

namespace Sys2Proof.Machine

/-- The three calibration registers of one channel (R11). The type stands here because a free value of it is needed
before `State` is declared. -/
structure CalEntry where
  /-- `CAL[k].base`: 8 bits unsigned, the first of the channel's four consecutive target registers. -/
  base  : Byte
  /-- `CAL[k].off`: 16 bits two's complement, the phase offset. -/
  off   : Half
  /-- `CAL[k].scale`: the unsigned 16-bit number `S`, whose value is the rational `S / 256` (R9). -/
  scale : Half
deriving DecidableEq, Repr, Inhabited

/-- What a `MemWrite` returns (R35). A failure also says which of the burst's bytes reached their cells, since the four
cells then hold "an unspecified mix of their old bytes and the new ones" (R38): bit `i` of `landed` for byte `i`. -/
inductive WriteReply
  | ok
  | fail (code : Byte) (landed : BitVec 4)
deriving DecidableEq, Repr, Inhabited

/-- What a `MemRead` returns (R35): the byte, or a failure code. -/
inductive ReadReply
  | byte (b : Byte)
  | fail (code : Byte)
deriving DecidableEq, Repr, Inhabited

end Sys2Proof.Machine

namespace Sys2Proof

/-- `CHANNEL_COUNT`: valid channel indices are 0 to 15 (R5). -/
def Config.channelCount : Nat := 16

/-- `REG_STRIDE`: consecutive 8-bit registers per channel (R5). -/
def Config.regStride : Nat := 4

/-- `BASE_CONST`: the base register of channel `k` is `4k + 6` (R5). -/
def Config.baseConst : Nat := 6

/-- `SPAN * 256`, that is `4096 * 256 = 1048576`: the span of one period in the units of `duty * S` (R5, R75, R92). -/
def Config.spanScaled : Int := 1048576

/-- `FLAG_BIT`: bit 4 of ON-high is full-on, bit 4 of OFF-high is full-off (R5). -/
def Config.flagBit : Nat := 4

/-- `DEFAULT_SCALE` 4, as the stored number `S = 1024` (R5, R65). -/
def Config.defaultScale : Half := 0x0400

/-- `DEFAULT_OFFSET` (R5, R65). -/
def Config.defaultOffset : Half := 0

/-- `CFG_REG` and `RESET_REG`: the target register that takes the host's two bytes (R5). -/
def Config.controlReg : Byte := 0x00

/-- `CFG_BYTE`: the host's one-time configuration write (R5, R125). -/
def Config.cfgByte : Byte := 0x21

/-- `RESET_BYTE`: the host's restart command (R5, R126). -/
def Config.resetByte : Byte := 0xA1

/-- `DUTY_SENTINEL` -1 in the 32-bit field: `0xFFFFFFFF` (R5, R19). -/
def Config.dutySentinel : DutyWord := 0xFFFFFFFF

/-- `DEV_ADDR`, OPEN: the target's bus address, "a fixed constant" whose value spec/ does not give (R6, D20, U8).
Every transaction carries it and no computation uses it. -/
opaque Config.devAddr : Nat

/-- `PROBE_ABSENT`, OPEN: the "absent" sentinel of the host's presence probe (R6, D33, U9). Used by no rule of the block. -/
opaque Config.probeAbsent : Nat

/-- FREE VALUE (R22, V1): what the calibration registers hold after a reset, by reset number and channel: "A model must
not read an unspecified `CAL` field as 0, as the default (offset 0, scale 4), or as any one value". -/
opaque Config.unspecifiedCal : Nat → Nat → Machine.CalEntry

/-- FREE VALUE (R43, U10, V3): what the target answers to its `n`-th transaction where that is a write and neither a
scripted answer nor the reference target decides it. -/
opaque Config.freeWrite : Nat → Machine.WriteReply

/-- FREE VALUE (R43, U10, V2): the same for a read: "A model takes the returned byte (or the failure) as a free input". -/
opaque Config.freeRead : Nat → Machine.ReadReply

/-- FREE VALUE (R31, R43, V7): the byte a register of the target holds whose content nothing in spec/ gives, by the draw from
which the register holds it and the register's address. -/
opaque Config.freeByte : Nat → Nat → Byte

/-- FREE VALUE (R75, R83): a division by `S = 0`. "The functions are defined for `S >= 1` only; no rule calls them with
`S = 0`"; states in which `INITD = 1` and an entry holds `S = 0` are not reachable (R13), and no number is chosen for
them. -/
opaque Config.zeroScaleQuotient : Int → Int

end Sys2Proof
end

