-- ==== Sys2Proof/Machine/State.lean ====
section
/-! DEFINITION. The state of the machine: the encoder's own registers (R10), and, because three agents take part (R4), the
host's moves still to come and the target with its answers, all as plain data. Each field's line says which rule names it,
or that it is the model's own (an input, a record of the bus port, the free-value counter). -/

namespace Sys2Proof.Machine

/-- The error codes of `RSP.ERR` (R57, R110). Codes 6 and 7 are never produced, so the type does not have them (V8). -/
inductive Err
  | ok
  | invalidChannel
  | configError
  | transportFailure
  | notInitialized
  | illegalCommand
deriving DecidableEq, Repr

/-- The four payload bytes, in the order they go to the target: ON-low, ON-high, OFF-low, OFF-high (R58). -/
structure Payload where
  onLo  : Byte
  onHi  : Byte
  offLo : Byte
  offHi : Byte
deriving DecidableEq, Repr

/-- Four zero bytes: what `RSP.PAYLOAD` holds when a command produces no payload (R19). -/
def Payload.zero : Payload := ⟨0, 0, 0, 0⟩

/-- The response record `RSP`, field by field (R17). Its 88-bit word is `Rsp.word` in Machine/Response.lean (R56). -/
structure Rsp where
  err     : Err
  initd   : Bool
  foff    : Bool
  fon     : Bool
  ovf     : Bool
  eq      : Bool
  terr    : Byte
  addr    : Byte
  payload : Payload
  duty    : DutyWord
deriving DecidableEq, Repr

/-- `RSP` with the initialised bit as given and every other field 0 (R19, R22). -/
def Rsp.blank (initd : Bool) : Rsp :=
  { err := .ok, initd, foff := false, fon := false, ovf := false, eq := false, terr := 0, addr := 0
    payload := Payload.zero, duty := 0 }

/-- What is known of the target register space (R30): a list of (address, byte) pairs, addresses strictly rising. An
unlisted register is one whose content spec/ does not give: the list has no value for it, and it holds a free byte
(`State.content` in Machine/Ops.lean). -/
abbrev Memory := List Host.Cell

/-- The moves of the host (R142). None of them can come while a command is in progress (R137, R142). -/
inductive HostMove
  /-- Present one 48-bit word on the command port (R16, R50). -/
  | command (w : CommandWord)
  /-- Reset the block (R130). -/
  | resetBlock
  /-- The configuration write: 0x21 to target register 0x00, past the block (R125). -/
  | configureTarget
  /-- The restart command: 0xA1 to target register 0x00, past the block (R126). -/
  | restartTarget
deriving DecidableEq, Repr

/-- A scripted answer of the target to a write: a reply, or none ever (U11). -/
inductive WriteAnswer
  | reply (r : WriteReply)
  | never
deriving DecidableEq, Repr

/-- A scripted answer of the target to a read: a reply, the register's content, or none ever (U11). -/
inductive ReadAnswer
  | reply (r : ReadReply)
  | content
  | never
deriving DecidableEq, Repr

/-- What answers a transaction that no scripted answer is left for: a target about which nothing is assumed (R43, U10), or
the reference target, "for tests only" (R44). -/
inductive TargetKind
  | free
  | reference
deriving DecidableEq, Repr

/-- Who starts a transaction: the encoder, or the host past it (R4, R39). -/
inductive Master
  | encoder
  | host
deriving DecidableEq, Repr

/-- What a transaction asked and how it ended: `writeRegisters` of some bytes, with the failure code if it failed, or
`readRegister`, with its reply (R35). -/
inductive BusOp
  | write (bytes : List Byte) (failure : Option Byte)
  | read (reply : ReadReply)
deriving DecidableEq, Repr

/-- One finished transaction: who made it, the bus address it carried (R30), the register it named, what it was. -/
structure Transaction where
  master : Master
  dev    : Nat
  addr   : Byte
  op     : BusOp
deriving DecidableEq, Repr

structure State where
  /-- `CAL[0..15]`, the calibration table (R10, R11). -/
  cal          : Vector CalEntry 16
  /-- `INITD`, the initialised bit (R15). -/
  initd        : Bool
  /-- `RSP`, the response record (R17). -/
  rsp          : Rsp
  /-- The target's registers, as far as spec/ says what they hold (R20, R30, R31). -/
  cells        : Memory
  /-- The model's number of the draw from which the unlisted registers hold their free bytes. -/
  cellsDraw    : Nat
  /-- Whether spec/ assures that the target advances its register address within a burst (R37, R125). -/
  autoInc      : Bool
  /-- INPUT: what answers where no script is left (R43, R44). -/
  targetKind   : TargetKind
  /-- INPUT: the target's answers to the next writes, in order (R23, R35). -/
  writeAnswers : List WriteAnswer
  /-- INPUT: the target's answers to the next reads, in order (R23, R35). -/
  readAnswers  : List ReadAnswer
  /-- INPUT: the moves the host still makes, in order (R16, R23, R142). -/
  host         : List HostMove
  /-- The model's record of the bus port: every finished transaction, oldest first (R35, R39). -/
  bus          : List Transaction
  /-- The model's counter of free values: the next one to draw. -/
  draw         : Nat
deriving DecidableEq, Repr

/-- A machine right after reset (R22, R130): `INITD = 0`, `RSP` all 0, every `CAL` field unspecified. Nothing is known of
the target, and no host move and no answer is scripted. -/
def State.reset : State :=
  { cal := Vector.ofFn fun k => Config.unspecifiedCal 0 k.val
    initd := false
    rsp := Rsp.blank false
    cells := []
    cellsDraw := 0
    autoInc := false
    targetKind := .free
    writeAnswers := []
    readAnswers := []
    host := []
    bus := []
    draw := 1 }

/-- Why the machine stops for good. -/
inductive Fault
  /-- Raised by SET, GET and the host's own two register writes when the target never answers a transaction: "A
  transaction that never returns leaves the block `stuck` in the command" (U11, R35). Only a scripted `never` answer leads
  here. Safe: the machine stops where the hardware does. -/
  | neverReturns
deriving DecidableEq, Repr

/-- Why the machine has no meaning for an instruction. -/
inductive Refusal
  /-- Raised by an arm of `exec` whose instruction has no meaning yet. No arm raises it: every command is modelled. Safe. -/
  | notModelled (mnemonic : String)
deriving DecidableEq, Repr

end Sys2Proof.Machine
end

