-- ==== Sys2Proof/Machine/Operands.lean ====
section
/-! DEFINITION. The operand forms as the meanings read them: a channel's calibration, its offset and scale as numbers, the
raw number of two register bytes, and the four bytes of a payload (R7, R9, R11, R51, R58). -/

namespace Sys2Proof.Machine

/-- Channel `k`'s calibration, or nothing where `k` is not in 0 to 15 (R11, R111). -/
def State.entry (s : State) (ch : Nat) : Option CalEntry := s.cal[ch]?

/-- `off` as the signed integer it stands for (R11, R51). -/
def CalEntry.offset (c : CalEntry) : Int := c.off.toInt

/-- `S`, the unsigned 16-bit number; the scale factor is `S / 256` (R9). -/
def CalEntry.scaleNat (c : CalEntry) : Nat := c.scale.toNat

/-- `base = 4k + 6` as the 8-bit register address (R12). -/
def baseOf (k : Nat) : Byte := BitVec.ofNat 8 (Config.regStride * k + Config.baseConst)

/-- `raw = on_lo | (on_hi << 8)`, all 16 bits, nothing masked (R51, R83). -/
def rawOf (onLo onHi : Byte) : Nat := onLo.toNat ||| (onHi.toNat <<< 8)

/-- The bytes in the order they go to the target (R33, R58). -/
def Payload.bytes (p : Payload) : List Byte := [p.onLo, p.onHi, p.offLo, p.offHi]

/-- The bytes of a burst that reach their cells, by the mask of `WriteReply.fail`; the first byte's number is `i`. -/
def landedBytes (mask : BitVec 4) : Nat → List Byte → List (Option Byte)
  | _, [] => []
  | i, b :: bs => (if mask.getLsbD i then some b else none) :: landedBytes mask (i + 1) bs

/-- Which bytes a reply says reached the target: all of them on `ok` (R39: "performed, in full, at the moment it
returns"), those of the mask on a failure (R38). -/
def WriteReply.landed (r : WriteReply) (bytes : List Byte) : List (Option Byte) :=
  match r with
  | .ok => bytes.map some
  | .fail _ mask => landedBytes mask 0 bytes

/-- The failure code of a write's reply, if it failed. -/
def WriteReply.failure : WriteReply → Option Byte
  | .ok => none
  | .fail code _ => some code

end Sys2Proof.Machine
end

