-- ==== Sys2Proof/Machine/Flags.lean ====
section
/-! DEFINITION. The four response flags (R18). Nothing in the block reads them. -/

namespace Sys2Proof.Machine

/-- `FOFF = PAYLOAD[3][4]`: bit 4 of OFF-high (R18, R58). -/
def foffFlag (p : Payload) : Bool := p.offHi.getLsbD Config.flagBit

/-- `FON = PAYLOAD[1][4]`: bit 4 of ON-high (R18, R58). -/
def fonFlag (p : Payload) : Bool := p.onHi.getLsbD Config.flagBit

/-- A value outside 0 to 4095. -/
def outside12 (v : Int) : Bool := v < 0 || 4095 < v

/-- `OVF = 1` exactly when `on` or `ofp`, before `Pack12`, lies outside 0 to 4095 (R78, R80). -/
def ovfFlag (on ofp : Int) : Bool := outside12 on || outside12 ofp

/-- `EQ = 1` exactly when `on12 == of12` (R78, R80). -/
def eqFlag (on12 of12 : Nat) : Bool := on12 == of12

end Sys2Proof.Machine
end

