-- ==== Sys2Proof/Machine/Codec.lean ====
section
/-! DEFINITION. The register codec: the pure functions `Ceil`, `Pack12`, `Encode` and `Decode` in the integer forms of R92,
on unbounded integers (D8). Lean's `/` and `%` on `Int` with a positive divisor are the `div` and `mod` of R7: the quotient
rounded toward minus infinity, and the remainder that is never negative. -/

namespace Sys2Proof.Machine

/-- Division by a scale number, defined for `S >= 1`; a free value for the `S = 0` that no rule reaches (R13). -/
def divScale (a : Int) (S : Nat) : Int :=
  if S = 0 then Config.zeroScaleQuotient a else a / (S : Int)

/-- `Ceil(S) = 1048576 div S` (R75, R92). -/
def ceilOf (S : Nat) : Int := divScale Config.spanScaled S

/-- `Pack12(v) = v mod 4096` (R79). -/
def pack12 (v : Int) : Nat := (v % 4096).toNat

/-- The three classes of a duty cycle (R76). -/
inductive DutyClass
  | fullOff
  | fullOn
  | interior
deriving DecidableEq, Repr

/-- The class of a duty cycle, full-off tested first (R76; 90_conflicts.md C1). It does not depend on the offset. -/
def classOf (duty : Int) (S : Nat) : DutyClass :=
  if duty ≤ 0 then .fullOff
  else if Config.spanScaled ≤ duty * (S : Int) then .fullOn
  else .interior

/-- `on`, the ON point before reduction (R78, R92). -/
def onPoint (duty off : Int) (S : Nat) : Int := (ceilOf S - duty + off) * (S : Int) / 256

/-- `ofp`, the OFF point before reduction (R78, R92). -/
def offPoint (off : Int) (S : Nat) : Int := off * (S : Int) / 256

/-- Low byte `value & 0xFF` of a point (R33, R78). -/
def lowByte (v : Nat) : Byte := BitVec.ofNat 8 (v % 256)

/-- High byte `value >> 8` of a point (R33, R78). -/
def highByte (v : Nat) : Byte := BitVec.ofNat 8 (v / 256)

/-- What `Encode` returns; `FOFF` and `FON` are bits of the payload (Machine/Flags.lean). -/
structure Encoded where
  payload : Payload
  ovf     : Bool
  eq      : Bool
deriving DecidableEq, Repr

/-- The full-off payload (R59). -/
def Payload.fullOff : Payload := ⟨0x00, 0x00, 0x00, 0x10⟩

/-- The full-on payload (R60). -/
def Payload.fullOn : Payload := ⟨0x00, 0x10, 0x00, 0x00⟩

/-- The payload of two 12-bit points, each low byte first (R33, R78). -/
def Payload.ofPoints (on12 of12 : Nat) : Payload := ⟨lowByte on12, highByte on12, lowByte of12, highByte of12⟩

/-- The interior class (R78). -/
def encodeInterior (duty off : Int) (S : Nat) : Encoded :=
  { payload := Payload.ofPoints (pack12 (onPoint duty off S)) (pack12 (offPoint off S))
    ovf := ovfFlag (onPoint duty off S) (offPoint off S)
    eq := eqFlag (pack12 (onPoint duty off S)) (pack12 (offPoint off S)) }

/-- `Encode(duty, off, S)` (R76, R77, R78). -/
def codecEncode (duty off : Int) (S : Nat) : Encoded :=
  match classOf duty S with
  | .fullOff => ⟨Payload.fullOff, false, false⟩
  | .fullOn => ⟨Payload.fullOn, false, false⟩
  | .interior => encodeInterior duty off S

/-- `Decode(raw, off, S) = Ceil(S) + off - ((raw * 256 + S - 1) div S)`, with no case for the override flags
(R83, R86, R92; 90_conflicts.md C2, C3). -/
def codecDecode (raw : Nat) (off : Int) (S : Nat) : Int :=
  ceilOf S + off - divScale ((raw : Int) * 256 + (S : Int) - 1) S

/-- `Encode` with a channel's calibration (R89, R95). -/
def CalEntry.encodeDuty (c : CalEntry) (duty : Int) : Encoded := codecEncode duty c.offset c.scaleNat

/-- `Decode` with a channel's calibration, as the 32-bit result field (R84, R90, R96). -/
def CalEntry.decodeRaw (c : CalEntry) (raw : Nat) : DutyWord := BitVec.ofInt 32 (codecDecode raw c.offset c.scaleNat)

end Sys2Proof.Machine
end

