-- ==== Sys2Proof/Machine/Ops.lean ====
section
/-! DEFINITION. The named operations over the target's registers, the calibration registers, the response record and the
bus, each once; `raise`, what every error does (R118), and the reset (R130). -/

namespace Sys2Proof.Machine

/-! Target registers: a memory in one canonical form. -/

/-- Addresses rise strictly from `lo` on, and each is an 8-bit address (R30). -/
def Memory.wfFrom : Nat → Memory → Bool
  | _, [] => true
  | lo, c :: m => lo ≤ c.1 && c.1 < 256 && Memory.wfFrom (c.1 + 1) m

/-- The canonical form: strictly rising 8-bit addresses. An unlisted address has no value, so no entry repeats it. -/
def Memory.wf (m : Memory) : Bool := Memory.wfFrom 0 m

/-- What spec/ says the register at an address holds, or nothing. -/
def Memory.read : Memory → Nat → Option Byte
  | [], _ => none
  | c :: m, a => if c.1 = a then some c.2 else Memory.read m a

/-- Put a byte in the register at an address. -/
def Memory.write : Memory → Nat → Byte → Memory
  | [], a, b => [(a, b)]
  | c :: m, a, b =>
    if a < c.1 then (a, b) :: c :: m
    else if a = c.1 then (a, b) :: m
    else c :: Memory.write m a b

/-- Bytes put in consecutive registers from an address on; `none` leaves its register as it is (R35, R38). -/
def Memory.land : Memory → Nat → List (Option Byte) → Memory
  | m, _, [] => m
  | m, a, none :: bs => Memory.land m (a + 1) bs
  | m, a, some b :: bs => Memory.land (Memory.write m a b) (a + 1) bs

/-! Calibration registers. -/

/-- The whole table from a function of the channel number (R65). -/
def tableOf (f : Nat → CalEntry) : Vector CalEntry 16 := Vector.ofFn fun k => f k.val

/-- The defaults of channel `k`: base `4k + 6`, offset 0, scale 4 (R65). -/
def CalEntry.default (k : Nat) : CalEntry := ⟨baseOf k, Config.defaultOffset, Config.defaultScale⟩

/-- `CAL[ch].off <- off; CAL[ch].scale <- S`, together; `base` is not written (R66, R67, R68). -/
def State.configure (s : State) (ch : Nat) (c : CalEntry) (off : Half) (scale : Half) : State :=
  { s with cal := s.cal.setIfInBounds ch { c with off, scale } }

/-! The response record. -/

/-- Every command writes the whole of `RSP` (R19). -/
def State.respond (s : State) (r : Rsp) : State := { s with rsp := r }

/-- `raise E` (R118), the block's one "trap entry": `RSP` gets `ERR = E`, the current `INITD`, the transport's code and the
duty value of the command's kind, every other field 0; no other state is written. There is no return from it: nothing is
saved, no mode changes, and the next command runs normally (R119). -/
def raise (e : Err) (terr : Byte) (duty : DutyWord) (s : State) : State :=
  s.respond { Rsp.blank s.initd with err := e, terr, duty }

/-- `RSP <- ERR = 0, INITD, everything else 0` (R65, R66). -/
def acknowledge (s : State) : State := s.respond (Rsp.blank s.initd)

/-- The two checks of every command that takes a channel, in the order of R117: `INITD`, then the channel (R111, R114).
They come before any effect and before any address is formed (R100). -/
def checkChannel (ch : Nat) (s : State) : Except Err CalEntry :=
  if s.initd then
    match s.entry ch with
    | some c => .ok c
    | none => .error .invalidChannel
  else .error .notInitialized

/-! The bus (R35). -/

/-- The target's answer to a write, if it answers: the next scripted one, else the target's kind decides (R43, R44). -/
def State.nextWrite (s : State) : Option WriteReply :=
  match s.writeAnswers with
  | .reply r :: _ => some r
  | .never :: _ => none
  | [] => match s.targetKind with
    | .free => some (Config.freeWrite s.draw)
    | .reference => some .ok

/-- The byte the register at `a` holds, `T[a]` in R44: the listed one, else the free byte it holds since the unlisted
registers were last drawn. It changes with a write, a restart or a new draw, never by a read (R38). -/
def State.content (s : State) (a : Byte) : Byte :=
  match Memory.read s.cells a.toNat with
  | some b => b
  | none => Config.freeByte s.cellsDraw a.toNat

/-- The target's answer to a read of register `a`, if it answers (R43, R44). -/
def State.nextRead (s : State) (a : Byte) : Option ReadReply :=
  match s.readAnswers with
  | .reply r :: _ => some r
  | .content :: _ => some (.byte (s.content a))
  | .never :: _ => none
  | [] => match s.targetKind with
    | .free => some (Config.freeRead s.draw)
    | .reference => some (.byte (s.content a))

/-- Whether a burst is assured to reach consecutive registers: after the host's configuration write (R37, R136), and
always on the reference target (R44). -/
def State.burstAssured (s : State) : Bool :=
  match s.targetKind with
  | .free => s.autoInc
  | .reference => true

/-- The target's listed registers after a burst at `a` that ended with reply `r`. Where the target is not assured to advance
its register address, spec/ says nothing of any register afterwards (N9, V6): all are drawn afresh. -/
def State.afterBurst (s : State) (a : Byte) (bytes : List Byte) (r : WriteReply) : Memory :=
  if s.burstAssured then Memory.land s.cells a.toNat (r.landed bytes) else []

/-- The draw of the unlisted registers after a burst. -/
def State.drawAfterBurst (s : State) : Nat := if s.burstAssured then s.cellsDraw else s.draw

/-- The state after one finished transaction: recorded on the bus, its scripted answer used up, one free value drawn. -/
def State.finish (s : State) (t : Transaction) : State := { s with bus := s.bus ++ [t], draw := s.draw + 1 }

/-- `MemWrite(a, 4, bytes)` by the encoder: one transaction `writeRegisters(DEV_ADDR, a, bytes, 4)` (R35), performed in
full at the moment it returns (R39). Nothing where the target never answers. -/
def memWrite (a : Byte) (p : Payload) (s : State) : Option (WriteReply × State) :=
  match s.nextWrite with
  | none => none
  | some r =>
    some (r, { s with
      cells := s.afterBurst a p.bytes r
      cellsDraw := s.drawAfterBurst
      writeAnswers := s.writeAnswers.tail }.finish ⟨.encoder, Config.devAddr, a, .write p.bytes r.failure⟩)

/-- `MemRead(a, 1)` by the encoder: one transaction `readRegister(DEV_ADDR, a)` (R35), without side effect on the target
(R38). Nothing where the target never answers. -/
def memRead (a : Byte) (s : State) : Option (ReadReply × State) :=
  match s.nextRead a with
  | none => none
  | some r =>
    some (r, { s with readAnswers := s.readAnswers.tail }.finish ⟨.encoder, Config.devAddr, a, .read r⟩)

/-- The block's reset (R130): `INITD = 0`, `RSP` all 0, every `CAL` field unspecified (R22). The target and the host are
not the block, and keep their state. -/
def resetBlock (s : State) : State :=
  { s with
    cal := tableOf (Config.unspecifiedCal s.draw)
    initd := false
    rsp := Rsp.blank false
    draw := s.draw + 1 }

end Sys2Proof.Machine
end

