-- ==== Sys2Proof/Machine/Calibration.lean ====
section
/-! DEFINITION. The calibration commands INIT and CFG (40_calibration.md). -/

namespace Sys2Proof.Machine

/-- INIT (R65): all 16 entries get their defaults, `INITD` becomes 1, `RSP` says so. It runs whatever `INITD` is, and may
be issued again at any time. -/
def execInit (s : State) : Host.Outcome State Fault Refusal :=
  .next (acknowledge { s with cal := tableOf CalEntry.default, initd := true })

/-- CFG ch, off, S (R66): `NotInitialized`, then `InvalidChannel`, then `ConfigError` for `S = 0`; else the channel's
offset and scale are overwritten together (R67, R68). -/
def execCfg (ch : Nat) (off : Int) (scale : Nat) (s : State) : Host.Outcome State Fault Refusal :=
  match checkChannel ch s with
  | .error e => .next (raise e 0 0 s)
  | .ok c =>
    if BitVec.ofNat 16 scale = 0 then .next (raise .configError 0 0 s)
    else .next (acknowledge (s.configure ch c (BitVec.ofInt 16 off) (BitVec.ofNat 16 scale)))

end Sys2Proof.Machine
end

