-- ==== Sys2Proof/Machine/Response.lean ====
section
/-! DEFINITION. The 88-bit response word (R56, R57), its reading back, and the two responses that carry a codec
result (R89, R90, R95, R96). -/

namespace Sys2Proof.Machine

/-- The numbers of R57. -/
def Err.code : Err → BitVec 3
  | .ok => 0
  | .invalidChannel => 1
  | .configError => 2
  | .transportFailure => 3
  | .notInitialized => 4
  | .illegalCommand => 5

/-- The error a code stands for; 6 and 7 are none (R57, V8). -/
def Err.ofCode (c : BitVec 3) : Option Err :=
  match c.toNat with
  | 0 => some .ok
  | 1 => some .invalidChannel
  | 2 => some .configError
  | 3 => some .transportFailure
  | 4 => some .notInitialized
  | 5 => some .illegalCommand
  | _ => none

/-- The last byte `EQ, OVF, FON, FOFF, INITD, ERR` (R56). -/
def Rsp.statusByte (r : Rsp) : Byte :=
  BitVec.ofBool r.eq ++ (BitVec.ofBool r.ovf ++ (BitVec.ofBool r.fon ++ (BitVec.ofBool r.foff ++
    (BitVec.ofBool r.initd ++ r.err.code))))

/-- The response word: `DUTY`, `PAYLOAD[3]` down to `PAYLOAD[0]`, `ADDR`, `TERR`, the last byte (R56). -/
def Rsp.word (r : Rsp) : ResponseWord :=
  r.duty ++ (r.payload.offHi ++ (r.payload.offLo ++ (r.payload.onHi ++ (r.payload.onLo ++ (r.addr ++ (r.terr ++
    r.statusByte))))))

/-- The record a response word stands for, by the bit positions of R56; none for a word with `ERR` 6 or 7. -/
def Rsp.ofWord (w : ResponseWord) : Option Rsp :=
  (Err.ofCode (w.extractLsb' 0 3)).map fun e =>
    { err := e
      initd := w.getLsbD 3
      foff := w.getLsbD 4
      fon := w.getLsbD 5
      ovf := w.getLsbD 6
      eq := w.getLsbD 7
      terr := w.extractLsb' 8 8
      addr := w.extractLsb' 16 8
      payload := ⟨w.extractLsb' 24 8, w.extractLsb' 32 8, w.extractLsb' 40 8, w.extractLsb' 48 8⟩
      duty := w.extractLsb' 56 32 }

/-- The response of an ENC, and of a SET that succeeded (R89, R95). -/
def encodedResponse (c : CalEntry) (duty : Int) (s : State) : State :=
  s.respond { Rsp.blank s.initd with
    foff := foffFlag (c.encodeDuty duty).payload
    fon := fonFlag (c.encodeDuty duty).payload
    ovf := (c.encodeDuty duty).ovf
    eq := (c.encodeDuty duty).eq
    addr := c.base
    payload := (c.encodeDuty duty).payload }

/-- The response of a DEC, and of a GET that succeeded (R90, R96). -/
def decodedResponse (c : CalEntry) (raw : Nat) (s : State) : State :=
  s.respond { Rsp.blank s.initd with duty := c.decodeRaw raw }

end Sys2Proof.Machine
end

