-- ==== Sys2Proof/Machine/ChannelOps.lean ====
section
/-! DEFINITION. The channel commands SET and GET, which reach the target (42_channel_ops.md). -/

namespace Sys2Proof.Machine

/-- SET ch, duty (R95): the checks, then exactly one burst of the four payload bytes at the channel's base, whatever the
flags are (R133, R134); a failed burst raises `TransportFailure` with its code (R113), and is not repeated (R101). -/
def execSet (ch : Nat) (duty : Int) (s : State) : Host.Outcome State Fault Refusal :=
  match checkChannel ch s with
  | .error e => .next (raise e 0 0 s)
  | .ok c =>
    match memWrite c.base (c.encodeDuty duty).payload s with
    | none => .fault .neverReturns
    | some (.fail code _, t) => .next (raise .transportFailure code 0 t)
    | some (.ok, t) => .next (encodedResponse c duty t)

/-- The second read of a GET, of ON-high, and the decoding of the pair (R96). -/
def getOnHigh (c : CalEntry) (onLo : Byte) (s : State) : Host.Outcome State Fault Refusal :=
  match memRead (c.base + 1) s with
  | none => .fault .neverReturns
  | some (.fail code, t) => .next (raise .transportFailure code Config.dutySentinel t)
  | some (.byte onHi, t) => .next (decodedResponse c (rawOf onLo onHi) t)

/-- GET ch (R96): the checks, then ON-low, then, if that read succeeded, ON-high (R36). An error writes `DUTY = -1`
(R19). -/
def execGet (ch : Nat) (s : State) : Host.Outcome State Fault Refusal :=
  match checkChannel ch s with
  | .error e => .next (raise e 0 Config.dutySentinel s)
  | .ok c =>
    match memRead c.base s with
    | none => .fault .neverReturns
    | some (.fail code, t) => .next (raise .transportFailure code Config.dutySentinel t)
    | some (.byte onLo, t) => getOnHigh c onLo t

end Sys2Proof.Machine
end

