-- ==== Sys2Proof/Machine/CodecOps.lean ====
section
/-! DEFINITION. The codec commands ENC and DEC, which make no bus transaction (41_codec.md section 5). -/

namespace Sys2Proof.Machine

/-- ENC ch, duty (R89). -/
def execEnc (ch : Nat) (duty : Int) (s : State) : Host.Outcome State Fault Refusal :=
  match checkChannel ch s with
  | .error e => .next (raise e 0 0 s)
  | .ok c => .next (encodedResponse c duty s)

/-- DEC ch, raw (R90). An error writes `DUTY = -1` (R19). -/
def execDec (ch : Nat) (raw : Nat) (s : State) : Host.Outcome State Fault Refusal :=
  match checkChannel ch s with
  | .error e => .next (raise e 0 Config.dutySentinel s)
  | .ok c => .next (decodedResponse c raw s)

end Sys2Proof.Machine
end

