-- ==== Sys2Proof/Machine/Dispatch.lean ====
section
/-! DEFINITION. One arm per command, each one call of its meaning (R52). -/

namespace Sys2Proof.Machine

def exec (i : Instr) (s : State) : Host.Outcome State Fault Refusal :=
  match i with
  | .init => Sys2Proof.Machine.execInit s
  | .cfg ch off scale => Sys2Proof.Machine.execCfg ch off scale s
  | .enc ch duty => Sys2Proof.Machine.execEnc ch duty s
  | .dec ch raw => Sys2Proof.Machine.execDec ch raw s
  | .set ch duty => Sys2Proof.Machine.execSet ch duty s
  | .get ch => Sys2Proof.Machine.execGet ch s

end Sys2Proof.Machine
end

