-- ==== Sys2Proof/Machine/HostMoves.lean ====
section
/-! DEFINITION. What each move of the host does (R142): a command word presented to the block, the reset of the block, and
the host's own two writes to the target's register 0x00, which go past the block (R125, R126). -/

namespace Sys2Proof.Machine

/-- A command word: the command it decodes to runs; an illegal word completes with `IllegalCommand`, whatever `INITD` is,
with `DUTY = 0` and no other effect (R54, R115). -/
def runWord (w : CommandWord) (s : State) : Host.Outcome State Fault Refusal :=
  match decode w with
  | .command i => exec i s
  | .illegal _ => .next (raise .illegalCommand 0 0 s)

/-- The host's write of one byte to the target's register 0x00: a transaction `writeRegisters(DEV_ADDR, 0x00, [b], 1)`,
answered by the target like any other (R35). What the register holds afterwards is not in spec/: a free byte. -/
def hostWrite (b : Byte) (s : State) : Option (WriteReply × State) :=
  match s.nextWrite with
  | none => none
  | some r =>
    some (r, { s with
      cells := Memory.write s.cells Config.controlReg.toNat (Config.freeByte s.draw Config.controlReg.toNat)
      writeAnswers := s.writeAnswers.tail }.finish ⟨.host, Config.devAddr, Config.controlReg, .write [b] r.failure⟩)

/-- The configuration write (R125): when it succeeded, the target advances its register address within a burst (R37). A
failed one assures nothing new. The block's own state is untouched. -/
def hostConfigure (s : State) : Host.Outcome State Fault Refusal :=
  match hostWrite Config.cfgByte s with
  | none => .fault .neverReturns
  | some (.ok, t) => .next { t with autoInc := true }
  | some (.fail _ _, t) => .next t

/-- The full-off payload in every channel's four registers (R44, R127), for the channels below `n`. -/
def allFullOff : Nat → Memory → Memory
  | 0, m => m
  | n + 1, m => Memory.land (allFullOff n m) (baseOf n).toNat (Payload.fullOff.bytes.map some)

/-- A byte with the override flag set and its other bits as given (R58). -/
def withFlag (b : Byte) : Byte := b ||| 0x10

/-- Every channel forced off with nothing else said of its registers (R126, R127): OFF-high has the full-off override set and
its other bits free by draw `n`, for the channels below the given number. -/
def allForcedOff (n : Nat) : Nat → Memory → Memory
  | 0, m => m
  | k + 1, m => Memory.write (allForcedOff n k m) ((baseOf k).toNat + 3) (withFlag (Config.freeByte n ((baseOf k).toNat + 3)))

/-- The target's listed registers after a restart command, transaction number `n`, that ended with reply `r`. On the
reference target every channel holds the full-off payload and every other register stays (R44). Of any other target the
exact bytes "are the chip's and are not in the source" beyond full-off for every channel (R127, V7). Whether a failed
restart happened is not in spec/. -/
def restartedCells (s : State) (n : Nat) (r : WriteReply) : Memory :=
  match s.targetKind, r with
  | .reference, .ok => allFullOff Config.channelCount s.cells
  | .free, .ok => allForcedOff n Config.channelCount []
  | _, .fail _ _ => []

/-- The draw of the unlisted registers after a restart command: only the reference target keeps what they hold. -/
def restartedDraw (s : State) (n : Nat) (r : WriteReply) : Nat :=
  match s.targetKind, r with
  | .reference, .ok => s.cellsDraw
  | _, _ => n

/-- The restart command (R126): it changes nothing in the block, `CAL` and `INITD` stay (R24). Whether auto-increment stays
enabled is not in the source (N10), so it is no longer assured. -/
def hostRestart (s : State) : Host.Outcome State Fault Refusal :=
  match hostWrite Config.resetByte s with
  | none => .fault .neverReturns
  | some (r, t) =>
    .next { t with
      cells := restartedCells t s.draw r
      cellsDraw := restartedDraw t s.draw r
      autoInc := false }

/-- One move of the host. -/
def applyMove (m : HostMove) (s : State) : Host.Outcome State Fault Refusal :=
  match m with
  | .command w => runWord w s
  | .resetBlock => .next (resetBlock s)
  | .configureTarget => hostConfigure s
  | .restartTarget => hostRestart s

/-- The host's next move and the state in which it is made, or nothing while the host makes none. -/
def takeMove (s : State) : Option (HostMove × State) :=
  match s.host with
  | [] => none
  | m :: rest => some (m, { s with host := rest })

/-- The host presents a move before all it still has to make. -/
def present (m : HostMove) (s : State) : State := { s with host := m :: s.host }

/-- The host's boot duties that the block or the target sees: INIT, then the configuration write (R131, steps 3 and 4). The
connection and the presence probe before them are the transport's and out of scope (R3, R116). -/
def bootMoves : List HostMove := [.command (encode .init), .configureTarget]

end Sys2Proof.Machine
end

