-- ==== Sys2Proof/Machine/Step.lean ====
section
/-! DEFINITION. One step of the machine. The block has no program counter and fetches nothing (R16): its next command is the
one the host presents next. -/

namespace Sys2Proof.Machine

/-- The next host move is made, a command being executed to completion (R16); with no move the block is idle and holds its
state (R128), and does nothing of its own accord (R130). -/
def step (s : State) : Host.Outcome State Fault Refusal :=
  match takeMove s with
  | none => .next s
  | some (m, t) => applyMove m t

/-- The command word of the opcode table's bits, presented as the host's very next move. -/
def State.withFetchWord (s : State) (nbits w : Nat) : State := present (.command (tableWord nbits w)) s

end Sys2Proof.Machine
end

