-- ==== Sys2Proof/Machine/Batch.lean ====
section
/-! DEFINITION. The batch pseudo-instructions SETN and GETN, which are loops of the host over single commands and nothing
else (R63, R97, R98, R99). -/

namespace Sys2Proof.Machine

/-- `SETN [c0..], [d0..]` expands to `SET c0, d0; SET c1, d1; ...`; the two lists must have the same length (R63). -/
def expandSetn (cs : List Nat) (ds : List Int) : Option (List Instr) :=
  if cs.length = ds.length then some (List.zipWith Instr.set cs ds) else none

/-- `GETN [c0..]` expands to `GET c0; GET c1; ...` (R63). -/
def expandGetn (cs : List Nat) : List Instr := cs.map Instr.get

/-- The host presents one command and the block executes it. -/
def issue (i : Instr) (s : State) : Host.Outcome State Fault Refusal := step (present (.command (encode i)) s)

/-- What a later part of a sequence answers, with the response of the command before it put first. -/
def addResponse (r : Rsp) :
    Host.Outcome (State × List Rsp) Fault Refusal → Host.Outcome (State × List Rsp) Fault Refusal
  | .next (s, rs) => .next (s, r :: rs)
  | .fault f => .fault f
  | .refused f => .refused f

/-- A sequence of commands, each presented when the one before it has completed, whatever its outcome (R16, R97): the
state after the last one, and the responses the host saw, one per command. -/
def issueAll : List Instr → State → Host.Outcome (State × List Rsp) Fault Refusal
  | [], s => .next (s, [])
  | i :: is, s =>
    match issue i s with
    | .next t => addResponse t.rsp (issueAll is t)
    | .fault f => .fault f
    | .refused f => .refused f

/-- SETN (R97); nothing where the lists differ in length, which is no SETN. -/
def runSetn (cs : List Nat) (ds : List Int) (s : State) : Option (Host.Outcome (State × List Rsp) Fault Refusal) :=
  (expandSetn cs ds).map fun is => issueAll is s

/-- GETN (R98). -/
def runGetn (cs : List Nat) (s : State) : Host.Outcome (State × List Rsp) Fault Refusal := issueAll (expandGetn cs) s

/-- The host's output buffer of a GETN: `out[i] = RSP.DUTY` of the i-th GET (R98). -/
def outputBuffer (rs : List Rsp) : List DutyWord := rs.map Rsp.duty

end Sys2Proof.Machine
end

