-- ==== Sys2Proof/Machine/Asm.lean ====
section
/-! DEFINITION. The assembler lines of R62 and R63: one command per line, operands separated by commas, `;` starts a
comment. A line is a list of characters; an ill-formed line has no meaning (`none`). -/

namespace Sys2Proof.Machine

/-- A space or a tab. -/
def isBlank (c : Char) : Bool := c == ' ' || c == '\t'

/-- A token without the blanks around it. -/
def trimBlanks (cs : List Char) : List Char := ((cs.dropWhile isBlank).reverse.dropWhile isBlank).reverse

/-- The line without its comment. -/
def withoutComment (cs : List Char) : List Char := cs.takeWhile (· != ';')

/-- One character's digit value in a base up to 16. -/
def digitValue (base : Nat) (c : Char) : Option Nat :=
  let v := if '0' ≤ c ∧ c ≤ '9' then c.toNat - '0'.toNat
    else if 'a' ≤ c ∧ c ≤ 'f' then c.toNat - 'a'.toNat + 10
    else if 'A' ≤ c ∧ c ≤ 'F' then c.toNat - 'A'.toNat + 10
    else 16
  if v < base then some v else none

/-- Digits after a value already read. -/
def digitsFrom (base acc : Nat) : List Char → Option Nat
  | [] => some acc
  | c :: cs =>
    match digitValue base c with
    | some v => digitsFrom base (acc * base + v) cs
    | none => none

/-- An unsigned number: decimal digits, or `0x` and hexadecimal digits (R7). -/
def parseNat : List Char → Option Nat
  | '0' :: 'x' :: c :: cs => digitsFrom 16 0 (c :: cs)
  | c :: cs => digitsFrom 10 0 (c :: cs)
  | [] => none

/-- A signed number. -/
def parseInt : List Char → Option Int
  | '-' :: cs => (parseNat cs).map fun n => -(n : Int)
  | cs => (parseNat cs).map fun n => (n : Int)

/-- A decimal number `i.f` that is an exact multiple of 1/256, as `S = 256 * scale` (R62). -/
def parseFixed (whole frac : List Char) : Option Nat :=
  match digitsFrom 10 0 (whole ++ frac) with
  | some n => if whole ≠ [] ∧ 256 * n % 10 ^ frac.length = 0 then some (256 * n / 10 ^ frac.length) else none
  | none => none

/-- A scale operand: `#` and a raw value, or a decimal number (R62). -/
def parseScale : List Char → Option Nat
  | '#' :: cs => parseNat cs
  | cs => parseFixed (cs.takeWhile (· != '.')) ((cs.dropWhile (· != '.')).drop 1)

/-- The operands of a line: split at the commas outside brackets, blanks trimmed; `cur` is the operand being read,
backwards. -/
def splitOperands (depth : Nat) (cur : List Char) : List Char → List (List Char)
  | [] => [trimBlanks cur.reverse]
  | c :: cs =>
    if c == ',' && depth == 0 then trimBlanks cur.reverse :: splitOperands depth [] cs
    else if c == '[' then splitOperands (depth + 1) (c :: cur) cs
    else if c == ']' then splitOperands (depth - 1) (c :: cur) cs
    else splitOperands depth (c :: cur) cs

/-- All of a list of results, or none. -/
def allOf {α : Type} : List (Option α) → Option (List α)
  | [] => some []
  | some x :: xs => (allOf xs).map (x :: ·)
  | none :: _ => none

/-- A bracketed list `[x0, x1, ...]`, each item read by `item` (R63). -/
def parseList {α : Type} (item : List Char → Option α) (cs : List Char) : Option (List α) :=
  match cs with
  | '[' :: rest =>
    match rest.reverse with
    | ']' :: inner =>
      if trimBlanks inner.reverse = [] then some []
      else allOf ((splitOperands 0 [] inner.reverse).map item)
    | _ => none
  | _ => none

/-- A command all of whose operands fit their fields (R62). -/
def checked (i : Instr) : Option (List Instr) := if i.wellFormed then some [i] else none

/-- The commands of one line, from its mnemonic and its operands (R62, R63). -/
def assembleParts (mnemonic : List Char) (ops : List (List Char)) : Option (List Instr) :=
  match String.ofList mnemonic, ops with
  | "INIT", [[]] => some [.init]
  | "CFG", [ch, off, scale] => do checked (.cfg (← parseNat ch) (← parseInt off) (← parseScale scale))
  | "ENC", [ch, duty] => do checked (.enc (← parseNat ch) (← parseInt duty))
  | "DEC", [ch, raw] => do checked (.dec (← parseNat ch) (← parseNat raw))
  | "SET", [ch, duty] => do checked (.set (← parseNat ch) (← parseInt duty))
  | "GET", [ch] => do checked (.get (← parseNat ch))
  | "SETN", [chs, duties] => do
    let is ← expandSetn (← parseList parseNat chs) (← parseList parseInt duties)
    if is.all Instr.wellFormed then some is else none
  | "GETN", [chs] => do
    let is := expandGetn (← parseList parseNat chs)
    if is.all Instr.wellFormed then some is else none
  | _, _ => none

/-- The commands of one assembler line; an empty line has none (R62). -/
def assemble (line : List Char) : Option (List Instr) :=
  let text := trimBlanks (withoutComment line)
  if text = [] then some []
  else assembleParts (text.takeWhile (! isBlank ·)) (splitOperands 0 [] (text.dropWhile (! isBlank ·)))

end Sys2Proof.Machine
end

