-- ==== Sys2Proof/Safety.lean ====
section
/-! DEFINITION. What counts as a legal state, and as a move the host may make with confidence, in the terms the claims
use. -/

namespace Sys2Proof.Machine

/-- R12 and R13: whenever `INITD = 1`, every channel's base is `4k + 6` and its scale number is at least 1. -/
def State.CalLegal (s : State) : Prop :=
  s.initd = true → ∀ ch c, s.entry ch = some c → c.base = baseOf ch ∧ c.scale ≠ 0

/-- The base register of some channel (R12, R46). -/
def isBase (a : Byte) : Prop := ∃ k, k < Config.channelCount ∧ a = baseOf k

/-- What R17, R18, R19, R61 and R77 promise of every response record. -/
structure Rsp.Legal (r : Rsp) : Prop where
  terr_only_on_failure : r.err ≠ .transportFailure → r.terr = 0
  error_carries_no_result : r.err ≠ .ok →
    r.addr = 0 ∧ r.payload = Payload.zero ∧ (r.duty = 0 ∨ r.duty = Config.dutySentinel)
  error_clears_flags : r.err ≠ .ok → r.foff = false ∧ r.fon = false ∧ r.ovf = false ∧ r.eq = false
  override_flags_copy_payload : r.foff = foffFlag r.payload ∧ r.fon = fonFlag r.payload
  never_both_overrides : ¬ (r.foff = true ∧ r.fon = true)
  diagnostics_interior_only : r.foff = true ∨ r.fon = true → r.ovf = false ∧ r.eq = false
  reserved_bits_zero : r.payload.onHi.extractLsb' 5 3 = 0 ∧ r.payload.offHi.extractLsb' 5 3 = 0
  addr_is_base : r.addr = 0 ∨ isBase r.addr

/-- What R30, R35, R36, R46, R125 and R126 promise of a transaction: it carries `DEV_ADDR`; the encoder's are 4-byte bursts
at a channel's base and single-byte reads of a channel's ON pair; the host's are its two bytes at register 0x00. -/
def Transaction.Legal (t : Transaction) : Prop :=
  t.dev = Config.devAddr ∧
  match t.master, t.op with
  | .encoder, .write bytes _ => isBase t.addr ∧ bytes.length = 4
  | .encoder, .read _ => isBase t.addr ∨ isBase (t.addr - 1)
  | .host, .write bytes _ => t.addr = Config.controlReg ∧ (bytes = [Config.cfgByte] ∨ bytes = [Config.resetByte])
  | .host, .read _ => False

/-- The legal states: what every step keeps. -/
structure State.Inv (s : State) : Prop where
  cal_legal : s.CalLegal
  initd_copied : s.rsp.initd = s.initd
  rsp_legal : s.rsp.Legal
  cells_wf : Memory.wf s.cells = true
  bus_legal : ∀ t ∈ s.bus, t.Legal

/-- A SET the host may issue with confidence: after the configuration write (R136), of a payload whose points neither
collide nor were reduced (R133, R134). -/
def State.SetDutiful (s : State) (ch : Nat) (duty : Int) : Prop :=
  s.burstAssured = true ∧
    ∀ c, s.entry ch = some c → (c.encodeDuty duty).eq = false ∧ (c.encodeDuty duty).ovf = false

/-- A scale number with which no default-offset SET collides: at least 1 and dividing the span (R133). -/
def collisionFreeScale (S : Nat) : Prop := 256 ≤ S ∧ (S : Int) ∣ Config.spanScaled

/-- Whether an outcome is a refusal: no step of this machine answers one. -/
def isRefused {σ φ ρ : Type} : Host.Outcome σ φ ρ → Bool
  | .refused _ => true
  | _ => false

end Sys2Proof.Machine
end

