-- ==== Sys2Proof/Laws/State.lean ====
section
/-! SUPPORT. One lemma per field of `State` and per update of it, and one for what a register holds, all true by
unfolding, so that no later proof unfolds a record update. -/

namespace Sys2Proof.Machine

@[simp] theorem respond_cal (s : State) (r : Rsp) : (s.respond r).cal = s.cal := rfl
@[simp] theorem respond_initd (s : State) (r : Rsp) : (s.respond r).initd = s.initd := rfl
@[simp] theorem respond_rsp (s : State) (r : Rsp) : (s.respond r).rsp = r := rfl
@[simp] theorem respond_cells (s : State) (r : Rsp) : (s.respond r).cells = s.cells := rfl
@[simp] theorem respond_cellsDraw (s : State) (r : Rsp) : (s.respond r).cellsDraw = s.cellsDraw := rfl
@[simp] theorem respond_content (s : State) (r : Rsp) (a : Byte) : (s.respond r).content a = s.content a := rfl
@[simp] theorem respond_autoInc (s : State) (r : Rsp) : (s.respond r).autoInc = s.autoInc := rfl
@[simp] theorem respond_targetKind (s : State) (r : Rsp) : (s.respond r).targetKind = s.targetKind := rfl
@[simp] theorem respond_writeAnswers (s : State) (r : Rsp) : (s.respond r).writeAnswers = s.writeAnswers := rfl
@[simp] theorem respond_readAnswers (s : State) (r : Rsp) : (s.respond r).readAnswers = s.readAnswers := rfl
@[simp] theorem respond_host (s : State) (r : Rsp) : (s.respond r).host = s.host := rfl
@[simp] theorem respond_bus (s : State) (r : Rsp) : (s.respond r).bus = s.bus := rfl
@[simp] theorem respond_draw (s : State) (r : Rsp) : (s.respond r).draw = s.draw := rfl

@[simp] theorem raise_cal (e : Err) (terr : Byte) (duty : DutyWord) (s : State) : (raise e terr duty s).cal = s.cal := rfl
@[simp] theorem raise_initd (e : Err) (terr : Byte) (duty : DutyWord) (s : State) : (raise e terr duty s).initd = s.initd := rfl
@[simp] theorem raise_rsp (e : Err) (terr : Byte) (duty : DutyWord) (s : State) : (raise e terr duty s).rsp = { Rsp.blank s.initd with err := e, terr, duty } := rfl
@[simp] theorem raise_cells (e : Err) (terr : Byte) (duty : DutyWord) (s : State) : (raise e terr duty s).cells = s.cells := rfl
@[simp] theorem raise_cellsDraw (e : Err) (terr : Byte) (duty : DutyWord) (s : State) : (raise e terr duty s).cellsDraw = s.cellsDraw := rfl
@[simp] theorem raise_content (e : Err) (terr : Byte) (duty : DutyWord) (s : State) (a : Byte) : (raise e terr duty s).content a = s.content a := rfl
@[simp] theorem raise_autoInc (e : Err) (terr : Byte) (duty : DutyWord) (s : State) : (raise e terr duty s).autoInc = s.autoInc := rfl
@[simp] theorem raise_targetKind (e : Err) (terr : Byte) (duty : DutyWord) (s : State) : (raise e terr duty s).targetKind = s.targetKind := rfl
@[simp] theorem raise_writeAnswers (e : Err) (terr : Byte) (duty : DutyWord) (s : State) : (raise e terr duty s).writeAnswers = s.writeAnswers := rfl
@[simp] theorem raise_readAnswers (e : Err) (terr : Byte) (duty : DutyWord) (s : State) : (raise e terr duty s).readAnswers = s.readAnswers := rfl
@[simp] theorem raise_host (e : Err) (terr : Byte) (duty : DutyWord) (s : State) : (raise e terr duty s).host = s.host := rfl
@[simp] theorem raise_bus (e : Err) (terr : Byte) (duty : DutyWord) (s : State) : (raise e terr duty s).bus = s.bus := rfl
@[simp] theorem raise_draw (e : Err) (terr : Byte) (duty : DutyWord) (s : State) : (raise e terr duty s).draw = s.draw := rfl

@[simp] theorem acknowledge_cal (s : State) : (acknowledge s).cal = s.cal := rfl
@[simp] theorem acknowledge_initd (s : State) : (acknowledge s).initd = s.initd := rfl
@[simp] theorem acknowledge_rsp (s : State) : (acknowledge s).rsp = Rsp.blank s.initd := rfl
@[simp] theorem acknowledge_cells (s : State) : (acknowledge s).cells = s.cells := rfl
@[simp] theorem acknowledge_cellsDraw (s : State) : (acknowledge s).cellsDraw = s.cellsDraw := rfl
@[simp] theorem acknowledge_content (s : State) (a : Byte) : (acknowledge s).content a = s.content a := rfl
@[simp] theorem acknowledge_autoInc (s : State) : (acknowledge s).autoInc = s.autoInc := rfl
@[simp] theorem acknowledge_targetKind (s : State) : (acknowledge s).targetKind = s.targetKind := rfl
@[simp] theorem acknowledge_writeAnswers (s : State) : (acknowledge s).writeAnswers = s.writeAnswers := rfl
@[simp] theorem acknowledge_readAnswers (s : State) : (acknowledge s).readAnswers = s.readAnswers := rfl
@[simp] theorem acknowledge_host (s : State) : (acknowledge s).host = s.host := rfl
@[simp] theorem acknowledge_bus (s : State) : (acknowledge s).bus = s.bus := rfl
@[simp] theorem acknowledge_draw (s : State) : (acknowledge s).draw = s.draw := rfl

@[simp] theorem configure_cal (s : State) (ch : Nat) (c : CalEntry) (off scale : Half) : (s.configure ch c off scale).cal = s.cal.setIfInBounds ch { c with off, scale } := rfl
@[simp] theorem configure_initd (s : State) (ch : Nat) (c : CalEntry) (off scale : Half) : (s.configure ch c off scale).initd = s.initd := rfl
@[simp] theorem configure_rsp (s : State) (ch : Nat) (c : CalEntry) (off scale : Half) : (s.configure ch c off scale).rsp = s.rsp := rfl
@[simp] theorem configure_cells (s : State) (ch : Nat) (c : CalEntry) (off scale : Half) : (s.configure ch c off scale).cells = s.cells := rfl
@[simp] theorem configure_cellsDraw (s : State) (ch : Nat) (c : CalEntry) (off scale : Half) : (s.configure ch c off scale).cellsDraw = s.cellsDraw := rfl
@[simp] theorem configure_content (s : State) (ch : Nat) (c : CalEntry) (off scale : Half) (a : Byte) : (s.configure ch c off scale).content a = s.content a := rfl
@[simp] theorem configure_autoInc (s : State) (ch : Nat) (c : CalEntry) (off scale : Half) : (s.configure ch c off scale).autoInc = s.autoInc := rfl
@[simp] theorem configure_targetKind (s : State) (ch : Nat) (c : CalEntry) (off scale : Half) : (s.configure ch c off scale).targetKind = s.targetKind := rfl
@[simp] theorem configure_writeAnswers (s : State) (ch : Nat) (c : CalEntry) (off scale : Half) : (s.configure ch c off scale).writeAnswers = s.writeAnswers := rfl
@[simp] theorem configure_readAnswers (s : State) (ch : Nat) (c : CalEntry) (off scale : Half) : (s.configure ch c off scale).readAnswers = s.readAnswers := rfl
@[simp] theorem configure_host (s : State) (ch : Nat) (c : CalEntry) (off scale : Half) : (s.configure ch c off scale).host = s.host := rfl
@[simp] theorem configure_bus (s : State) (ch : Nat) (c : CalEntry) (off scale : Half) : (s.configure ch c off scale).bus = s.bus := rfl
@[simp] theorem configure_draw (s : State) (ch : Nat) (c : CalEntry) (off scale : Half) : (s.configure ch c off scale).draw = s.draw := rfl

@[simp] theorem finish_cal (s : State) (t : Transaction) : (s.finish t).cal = s.cal := rfl
@[simp] theorem finish_initd (s : State) (t : Transaction) : (s.finish t).initd = s.initd := rfl
@[simp] theorem finish_rsp (s : State) (t : Transaction) : (s.finish t).rsp = s.rsp := rfl
@[simp] theorem finish_cells (s : State) (t : Transaction) : (s.finish t).cells = s.cells := rfl
@[simp] theorem finish_cellsDraw (s : State) (t : Transaction) : (s.finish t).cellsDraw = s.cellsDraw := rfl
@[simp] theorem finish_content (s : State) (t : Transaction) (a : Byte) : (s.finish t).content a = s.content a := rfl
@[simp] theorem finish_autoInc (s : State) (t : Transaction) : (s.finish t).autoInc = s.autoInc := rfl
@[simp] theorem finish_targetKind (s : State) (t : Transaction) : (s.finish t).targetKind = s.targetKind := rfl
@[simp] theorem finish_writeAnswers (s : State) (t : Transaction) : (s.finish t).writeAnswers = s.writeAnswers := rfl
@[simp] theorem finish_readAnswers (s : State) (t : Transaction) : (s.finish t).readAnswers = s.readAnswers := rfl
@[simp] theorem finish_host (s : State) (t : Transaction) : (s.finish t).host = s.host := rfl
@[simp] theorem finish_bus (s : State) (t : Transaction) : (s.finish t).bus = s.bus ++ [t] := rfl
@[simp] theorem finish_draw (s : State) (t : Transaction) : (s.finish t).draw = s.draw + 1 := rfl

@[simp] theorem encodedResponse_cal (c : CalEntry) (duty : Int) (s : State) : (encodedResponse c duty s).cal = s.cal := rfl
@[simp] theorem encodedResponse_initd (c : CalEntry) (duty : Int) (s : State) : (encodedResponse c duty s).initd = s.initd := rfl
@[simp] theorem encodedResponse_rsp (c : CalEntry) (duty : Int) (s : State) : (encodedResponse c duty s).rsp = 
    { Rsp.blank s.initd with
      foff := foffFlag (c.encodeDuty duty).payload, fon := fonFlag (c.encodeDuty duty).payload
      ovf := (c.encodeDuty duty).ovf, eq := (c.encodeDuty duty).eq
      addr := c.base, payload := (c.encodeDuty duty).payload } := rfl
@[simp] theorem encodedResponse_cells (c : CalEntry) (duty : Int) (s : State) : (encodedResponse c duty s).cells = s.cells := rfl
@[simp] theorem encodedResponse_cellsDraw (c : CalEntry) (duty : Int) (s : State) : (encodedResponse c duty s).cellsDraw = s.cellsDraw := rfl
@[simp] theorem encodedResponse_content (c : CalEntry) (duty : Int) (s : State) (a : Byte) : (encodedResponse c duty s).content a = s.content a := rfl
@[simp] theorem encodedResponse_autoInc (c : CalEntry) (duty : Int) (s : State) : (encodedResponse c duty s).autoInc = s.autoInc := rfl
@[simp] theorem encodedResponse_targetKind (c : CalEntry) (duty : Int) (s : State) : (encodedResponse c duty s).targetKind = s.targetKind := rfl
@[simp] theorem encodedResponse_writeAnswers (c : CalEntry) (duty : Int) (s : State) : (encodedResponse c duty s).writeAnswers = s.writeAnswers := rfl
@[simp] theorem encodedResponse_readAnswers (c : CalEntry) (duty : Int) (s : State) : (encodedResponse c duty s).readAnswers = s.readAnswers := rfl
@[simp] theorem encodedResponse_host (c : CalEntry) (duty : Int) (s : State) : (encodedResponse c duty s).host = s.host := rfl
@[simp] theorem encodedResponse_bus (c : CalEntry) (duty : Int) (s : State) : (encodedResponse c duty s).bus = s.bus := rfl
@[simp] theorem encodedResponse_draw (c : CalEntry) (duty : Int) (s : State) : (encodedResponse c duty s).draw = s.draw := rfl

@[simp] theorem decodedResponse_cal (c : CalEntry) (raw : Nat) (s : State) : (decodedResponse c raw s).cal = s.cal := rfl
@[simp] theorem decodedResponse_initd (c : CalEntry) (raw : Nat) (s : State) : (decodedResponse c raw s).initd = s.initd := rfl
@[simp] theorem decodedResponse_rsp (c : CalEntry) (raw : Nat) (s : State) : (decodedResponse c raw s).rsp = { Rsp.blank s.initd with duty := c.decodeRaw raw } := rfl
@[simp] theorem decodedResponse_cells (c : CalEntry) (raw : Nat) (s : State) : (decodedResponse c raw s).cells = s.cells := rfl
@[simp] theorem decodedResponse_cellsDraw (c : CalEntry) (raw : Nat) (s : State) : (decodedResponse c raw s).cellsDraw = s.cellsDraw := rfl
@[simp] theorem decodedResponse_content (c : CalEntry) (raw : Nat) (s : State) (a : Byte) : (decodedResponse c raw s).content a = s.content a := rfl
@[simp] theorem decodedResponse_autoInc (c : CalEntry) (raw : Nat) (s : State) : (decodedResponse c raw s).autoInc = s.autoInc := rfl
@[simp] theorem decodedResponse_targetKind (c : CalEntry) (raw : Nat) (s : State) : (decodedResponse c raw s).targetKind = s.targetKind := rfl
@[simp] theorem decodedResponse_writeAnswers (c : CalEntry) (raw : Nat) (s : State) : (decodedResponse c raw s).writeAnswers = s.writeAnswers := rfl
@[simp] theorem decodedResponse_readAnswers (c : CalEntry) (raw : Nat) (s : State) : (decodedResponse c raw s).readAnswers = s.readAnswers := rfl
@[simp] theorem decodedResponse_host (c : CalEntry) (raw : Nat) (s : State) : (decodedResponse c raw s).host = s.host := rfl
@[simp] theorem decodedResponse_bus (c : CalEntry) (raw : Nat) (s : State) : (decodedResponse c raw s).bus = s.bus := rfl
@[simp] theorem decodedResponse_draw (c : CalEntry) (raw : Nat) (s : State) : (decodedResponse c raw s).draw = s.draw := rfl

@[simp] theorem resetBlock_cal (s : State) : (resetBlock s).cal = tableOf (Config.unspecifiedCal s.draw) := rfl
@[simp] theorem resetBlock_initd (s : State) : (resetBlock s).initd = false := rfl
@[simp] theorem resetBlock_rsp (s : State) : (resetBlock s).rsp = Rsp.blank false := rfl
@[simp] theorem resetBlock_cells (s : State) : (resetBlock s).cells = s.cells := rfl
@[simp] theorem resetBlock_cellsDraw (s : State) : (resetBlock s).cellsDraw = s.cellsDraw := rfl
@[simp] theorem resetBlock_content (s : State) (a : Byte) : (resetBlock s).content a = s.content a := rfl
@[simp] theorem resetBlock_autoInc (s : State) : (resetBlock s).autoInc = s.autoInc := rfl
@[simp] theorem resetBlock_targetKind (s : State) : (resetBlock s).targetKind = s.targetKind := rfl
@[simp] theorem resetBlock_writeAnswers (s : State) : (resetBlock s).writeAnswers = s.writeAnswers := rfl
@[simp] theorem resetBlock_readAnswers (s : State) : (resetBlock s).readAnswers = s.readAnswers := rfl
@[simp] theorem resetBlock_host (s : State) : (resetBlock s).host = s.host := rfl
@[simp] theorem resetBlock_bus (s : State) : (resetBlock s).bus = s.bus := rfl
@[simp] theorem resetBlock_draw (s : State) : (resetBlock s).draw = s.draw + 1 := rfl

@[simp] theorem present_cal (m : HostMove) (s : State) : (present m s).cal = s.cal := rfl
@[simp] theorem present_initd (m : HostMove) (s : State) : (present m s).initd = s.initd := rfl
@[simp] theorem present_rsp (m : HostMove) (s : State) : (present m s).rsp = s.rsp := rfl
@[simp] theorem present_cells (m : HostMove) (s : State) : (present m s).cells = s.cells := rfl
@[simp] theorem present_cellsDraw (m : HostMove) (s : State) : (present m s).cellsDraw = s.cellsDraw := rfl
@[simp] theorem present_content (m : HostMove) (s : State) (a : Byte) : (present m s).content a = s.content a := rfl
@[simp] theorem present_autoInc (m : HostMove) (s : State) : (present m s).autoInc = s.autoInc := rfl
@[simp] theorem present_targetKind (m : HostMove) (s : State) : (present m s).targetKind = s.targetKind := rfl
@[simp] theorem present_writeAnswers (m : HostMove) (s : State) : (present m s).writeAnswers = s.writeAnswers := rfl
@[simp] theorem present_readAnswers (m : HostMove) (s : State) : (present m s).readAnswers = s.readAnswers := rfl
@[simp] theorem present_host (m : HostMove) (s : State) : (present m s).host = m :: s.host := rfl
@[simp] theorem present_bus (m : HostMove) (s : State) : (present m s).bus = s.bus := rfl
@[simp] theorem present_draw (m : HostMove) (s : State) : (present m s).draw = s.draw := rfl

end Sys2Proof.Machine
end

