-- ==== Sys2Proof/Laws/Codec.lean ====
section
/-! SUPPORT. Small facts of the codec's own definitions. -/

namespace Sys2Proof.Machine

theorem divScale_of_pos (a : Int) {S : Nat} (h : 1 ≤ S) : divScale a S = a / (S : Int) := by
  rw [divScale, if_neg (by omega)]

theorem ceilOf_of_pos {S : Nat} (h : 1 ≤ S) : ceilOf S = 1048576 / (S : Int) := divScale_of_pos _ h

theorem pack12_lt (v : Int) : pack12 v < 4096 := by unfold pack12; omega

theorem pack12_cast (v : Int) : (pack12 v : Int) = v % 4096 := by unfold pack12; omega

theorem classOf_interior_iff (duty : Int) (S : Nat) :
    classOf duty S = .interior ↔ 0 < duty ∧ duty * (S : Int) < 1048576 := by
  unfold classOf Config.spanScaled
  split
  · simp; omega
  · split <;> simp <;> omega

theorem codecEncode_fullOff {duty : Int} {S : Nat} (off : Int) (h : classOf duty S = .fullOff) :
    codecEncode duty off S = ⟨Payload.fullOff, false, false⟩ := by simp [codecEncode, h]

theorem codecEncode_fullOn {duty : Int} {S : Nat} (off : Int) (h : classOf duty S = .fullOn) :
    codecEncode duty off S = ⟨Payload.fullOn, false, false⟩ := by simp [codecEncode, h]

theorem codecEncode_interior {duty : Int} {S : Nat} (off : Int) (h : classOf duty S = .interior) :
    codecEncode duty off S = encodeInterior duty off S := by simp [codecEncode, h]

theorem byte_bit_four_of_lt {v : Nat} (h : v < 16) : (BitVec.ofNat 8 v).getLsbD 4 = false := by
  interval_cases v <;> rfl

theorem byte_top_of_lt {v : Nat} (h : v < 16) : (BitVec.ofNat 8 v).extractLsb' 5 3 = 0 := by
  interval_cases v <;> rfl

/-- The two bytes of a point give it back (R33). -/
theorem rawOf_bytes {v : Nat} (h : v < 65536) : rawOf (lowByte v) (highByte v) = v := by
  unfold rawOf lowByte highByte
  rw [Nat.or_comm, ← Nat.shiftLeft_add_eq_or_of_lt (by simp; omega), Nat.shiftLeft_eq]
  simp
  omega

/-- `raw` is the little-endian value of its two bytes (R33, R83). -/
theorem rawOf_eq (lo hi : Byte) : rawOf lo hi = lo.toNat + 256 * hi.toNat := by
  unfold rawOf
  rw [Nat.or_comm, ← Nat.shiftLeft_add_eq_or_of_lt lo.isLt, Nat.shiftLeft_eq]
  omega

theorem rawOf_lt (lo hi : Byte) : rawOf lo hi < 65536 := by
  rw [rawOf_eq]
  have := lo.isLt
  have := hi.isLt
  omega

end Sys2Proof.Machine
end

