-- ==== Sys2Proof/Laws/Memory.lean ====
section
/-! SUPPORT. The target registers: a read after a write, and that every memory operation keeps the canonical form. -/

namespace Sys2Proof.Machine

theorem wfFrom_mono {lo lo' : Nat} {m : Memory} (h : Memory.wfFrom lo m = true) (hl : lo' ≤ lo) :
    Memory.wfFrom lo' m = true := by
  cases m with
  | nil => rfl
  | cons c m =>
    simp only [Memory.wfFrom, Bool.and_eq_true, decide_eq_true_eq] at h ⊢
    exact ⟨⟨by omega, h.1.2⟩, h.2⟩

theorem read_write_same (m : Memory) (a : Nat) (b : Byte) : Memory.read (Memory.write m a b) a = some b := by
  induction m with
  | nil => simp [Memory.write, Memory.read]
  | cons c m ih =>
    simp only [Memory.write]
    split
    · simp [Memory.read]
    · split
      · simp [Memory.read]
      · simp only [Memory.read, ih]
        rw [if_neg (by omega)]

theorem read_write_other {a k : Nat} (hk : k ≠ a) (m : Memory) (b : Byte) :
    Memory.read (Memory.write m a b) k = Memory.read m k := by
  induction m with
  | nil => simp [Memory.write, Memory.read, Ne.symm hk]
  | cons c m ih =>
    simp only [Memory.write]
    split
    · simp [Memory.read, Ne.symm hk]
    · split
      · rename_i h
        simp [Memory.read, Ne.symm hk, ← h]
      · simp [Memory.read, ih]

theorem write_wfFrom {lo a : Nat} {m : Memory} (b : Byte) (h : Memory.wfFrom lo m = true) (hlo : lo ≤ a) (ha : a < 256) :
    Memory.wfFrom lo (Memory.write m a b) = true := by
  induction m generalizing lo with
  | nil => simp [Memory.write, Memory.wfFrom, hlo, ha]
  | cons c m ih =>
    simp only [Memory.wfFrom, Bool.and_eq_true, decide_eq_true_eq] at h
    simp only [Memory.write]
    split
    · simp only [Memory.wfFrom, Bool.and_eq_true, decide_eq_true_eq]
      exact ⟨⟨hlo, ha⟩, ⟨by omega, h.1.2⟩, h.2⟩
    · split
      · rename_i hc
        simp only [Memory.wfFrom, Bool.and_eq_true, decide_eq_true_eq]
        exact ⟨⟨hlo, ha⟩, hc ▸ h.2⟩
      · simp only [Memory.wfFrom, Bool.and_eq_true, decide_eq_true_eq]
        exact ⟨h.1, ih h.2 (by omega)⟩

theorem write_wf {m : Memory} {a : Nat} (b : Byte) (h : Memory.wf m = true) (ha : a < 256) :
    Memory.wf (Memory.write m a b) = true :=
  write_wfFrom b h (Nat.zero_le a) ha

theorem land_wf {m : Memory} {a : Nat} {bs : List (Option Byte)} (h : Memory.wf m = true) (ha : a + bs.length ≤ 256) :
    Memory.wf (Memory.land m a bs) = true := by
  induction bs generalizing m a with
  | nil => exact h
  | cons b bs ih =>
    simp only [List.length_cons] at ha
    cases b with
    | none => exact ih h (by omega)
    | some b => exact ih (write_wf b h (by omega)) (by omega)

/-- A burst leaves every register outside its own as it was. -/
theorem read_land_outside {a k : Nat} {bs : List (Option Byte)} (hk : k < a ∨ a + bs.length ≤ k) (m : Memory) :
    Memory.read (Memory.land m a bs) k = Memory.read m k := by
  induction bs generalizing m a with
  | nil => rfl
  | cons b bs ih =>
    simp only [List.length_cons] at hk
    cases b with
    | none => exact ih (by omega) m
    | some b => exact (ih (by omega) _).trans (read_write_other (by omega) m b)

/-- A burst puts its `i`-th byte in its `i`-th register, where that byte landed. -/
theorem read_land_inside {a i : Nat} {bs : List (Option Byte)} (hi : i < bs.length) (m : Memory) :
    Memory.read (Memory.land m a bs) (a + i) = (bs[i]).or (Memory.read m (a + i)) := by
  induction bs generalizing m a i with
  | nil => simp at hi
  | cons b bs ih =>
    cases i with
    | zero =>
      cases b with
      | none => simpa [Memory.land] using read_land_outside (a := a + 1) (k := a) (by omega) m
      | some b =>
        simp only [Memory.land, Nat.add_zero, List.getElem_cons_zero, Option.some_or]
        rw [read_land_outside (by omega), read_write_same]
    | succ i =>
      have hi' : i < bs.length := by simpa using hi
      have shift : a + (i + 1) = a + 1 + i := by omega
      cases b with
      | none => simpa [Memory.land, shift] using ih hi' m
      | some b =>
        simp only [Memory.land, shift, List.getElem_cons_succ]
        rw [ih hi', read_write_other (by omega)]

@[simp] theorem landedBytes_length (mask : BitVec 4) (i : Nat) (bs : List Byte) :
    (landedBytes mask i bs).length = bs.length := by
  induction bs generalizing i with
  | nil => rfl
  | cons b bs ih => simp [landedBytes, ih]

@[simp] theorem landed_length (r : WriteReply) (bs : List Byte) : (r.landed bs).length = bs.length := by
  cases r <;> simp [WriteReply.landed]

@[simp] theorem payload_bytes_length (p : Payload) : p.bytes.length = 4 := rfl

end Sys2Proof.Machine
end

