-- ==== Sys2Proof/Laws/Ops.lean ====
section
/-! SUPPORT. What each shared operation can do, said once: the channel check, the two transactions, the host's write, and the
four meanings that use them. -/

namespace Sys2Proof.Machine

theorem entry_none_iff (s : State) (ch : Nat) : s.entry ch = none ↔ 16 ≤ ch := by
  simp [State.entry]

theorem entry_of_lt (s : State) {ch : Nat} (h : ch < 16) : s.entry ch = some s.cal[ch] := by
  simp [State.entry, h]

theorem lt_of_entry {s : State} {ch : Nat} {c : CalEntry} (h : s.entry ch = some c) : ch < 16 := by
  by_contra hn
  rw [(entry_none_iff s ch).mpr (by omega)] at h
  cases h

/-- Every channel of a table written whole holds its own entry. -/
theorem entry_of_table {s : State} {f : Nat → CalEntry} (h : s.cal = tableOf f) {ch : Nat} (hc : ch < 16) :
    s.entry ch = some (f ch) := by
  rw [entry_of_lt s hc]
  simp [h, tableOf]

/-- Two states with one calibration table have one entry for each channel. -/
theorem entry_congr {s t : State} (h : s.cal = t.cal) (ch : Nat) : s.entry ch = t.entry ch := by
  simp [State.entry, h]

theorem checkChannel_ok_iff {ch : Nat} {s : State} {c : CalEntry} :
    checkChannel ch s = .ok c ↔ s.initd = true ∧ s.entry ch = some c := by
  unfold checkChannel
  cases hi : s.initd <;> cases he : s.entry ch <;> simp

theorem checkChannel_of_not_initd {ch : Nat} {s : State} (h : s.initd = false) :
    checkChannel ch s = .error .notInitialized := by
  simp [checkChannel, h]

theorem checkChannel_of_bad_channel {ch : Nat} {s : State} (hi : s.initd = true) (hc : 16 ≤ ch) :
    checkChannel ch s = .error .invalidChannel := by
  simp [checkChannel, hi, (entry_none_iff s ch).mpr hc]

/-- The channel check fails in exactly two ways, in the order of R117. -/
theorem checkChannel_error_cases {ch : Nat} {s : State} {e : Err} (h : checkChannel ch s = .error e) :
    (s.initd = false ∧ e = .notInitialized) ∨ (s.initd = true ∧ 16 ≤ ch ∧ e = .invalidChannel) := by
  cases hi : s.initd with
  | false => rw [checkChannel_of_not_initd hi] at h; cases h; exact .inl ⟨rfl, rfl⟩
  | true =>
    by_cases hc : 16 ≤ ch
    · rw [checkChannel_of_bad_channel hi hc] at h; cases h; exact .inr ⟨rfl, hc, rfl⟩
    · rw [checkChannel_ok_iff.mpr ⟨hi, entry_of_lt s (by omega)⟩] at h; cases h

/-- Everything a write by the encoder does. -/
theorem memWrite_some {a : Byte} {p : Payload} {s t : State} {r : WriteReply} (h : memWrite a p s = some (r, t)) :
    s.nextWrite = some r ∧ t = { s with
      cells := s.afterBurst a p.bytes r
      cellsDraw := s.drawAfterBurst
      writeAnswers := s.writeAnswers.tail
      bus := s.bus ++ [⟨.encoder, Config.devAddr, a, .write p.bytes r.failure⟩]
      draw := s.draw + 1 } := by
  unfold memWrite at h
  cases hw : s.nextWrite with
  | none => rw [hw] at h; cases h
  | some r' => rw [hw] at h; cases h; exact ⟨rfl, rfl⟩

theorem memWrite_of_reply {a : Byte} {p : Payload} {s : State} {r : WriteReply} (h : s.nextWrite = some r) :
    memWrite a p s = some (r, { s with
      cells := s.afterBurst a p.bytes r
      cellsDraw := s.drawAfterBurst
      writeAnswers := s.writeAnswers.tail
      bus := s.bus ++ [⟨.encoder, Config.devAddr, a, .write p.bytes r.failure⟩]
      draw := s.draw + 1 }) := by
  unfold memWrite
  rw [h]
  rfl

theorem memWrite_none_iff {a : Byte} {p : Payload} {s : State} : memWrite a p s = none ↔ s.nextWrite = none := by
  unfold memWrite
  cases s.nextWrite <;> simp

/-- Everything a read by the encoder does. -/
theorem memRead_some {a : Byte} {s t : State} {r : ReadReply} (h : memRead a s = some (r, t)) :
    s.nextRead a = some r ∧ t = { s with
      readAnswers := s.readAnswers.tail
      bus := s.bus ++ [⟨.encoder, Config.devAddr, a, .read r⟩]
      draw := s.draw + 1 } := by
  unfold memRead at h
  cases hr : s.nextRead a with
  | none => rw [hr] at h; cases h
  | some r' => rw [hr] at h; cases h; exact ⟨rfl, rfl⟩

theorem memRead_of_reply {a : Byte} {s : State} {r : ReadReply} (h : s.nextRead a = some r) :
    memRead a s = some (r, { s with
      readAnswers := s.readAnswers.tail
      bus := s.bus ++ [⟨.encoder, Config.devAddr, a, .read r⟩]
      draw := s.draw + 1 }) := by
  unfold memRead
  rw [h]
  rfl

theorem memRead_none_iff {a : Byte} {s : State} : memRead a s = none ↔ s.nextRead a = none := by
  unfold memRead
  cases s.nextRead a <;> simp

/-- Only a scripted `never` leaves a write without an answer (U11). -/
theorem nextWrite_none_iff (s : State) : s.nextWrite = none ↔ s.writeAnswers.head? = some .never := by
  unfold State.nextWrite
  rcases s.writeAnswers with _ | ⟨_ | _, _⟩ <;> cases s.targetKind <;> simp

/-- Only a scripted `never` leaves a read without an answer (U11). -/
theorem nextRead_none_iff (s : State) (a : Byte) : s.nextRead a = none ↔ s.readAnswers.head? = some .never := by
  unfold State.nextRead
  rcases s.readAnswers with _ | ⟨_ | _ | _, _⟩ <;> cases s.targetKind <;> simp

/-- Everything the host's own register write does. -/
theorem hostWrite_some {b : Byte} {s t : State} {r : WriteReply} (h : hostWrite b s = some (r, t)) :
    s.nextWrite = some r ∧ t = { s with
      cells := Memory.write s.cells Config.controlReg.toNat (Config.freeByte s.draw Config.controlReg.toNat)
      writeAnswers := s.writeAnswers.tail
      bus := s.bus ++ [⟨.host, Config.devAddr, Config.controlReg, .write [b] r.failure⟩]
      draw := s.draw + 1 } := by
  unfold hostWrite at h
  cases hw : s.nextWrite with
  | none => rw [hw] at h; cases h
  | some r' => rw [hw] at h; cases h; exact ⟨rfl, rfl⟩

/-- The content of a register depends on its listed byte and the draw of the unlisted ones. -/
theorem content_congr {s t : State} {a : Byte} (hc : Memory.read t.cells a.toNat = Memory.read s.cells a.toNat)
    (hd : t.cellsDraw = s.cellsDraw) : t.content a = s.content a := by
  simp [State.content, hc, hd]

theorem content_of_read {s : State} {a b : Byte} (h : Memory.read s.cells a.toNat = some b) : s.content a = b := by
  simp [State.content, h]

/-- The reference target answers every read with the register's content (R44). -/
theorem nextRead_reference {s : State} (hk : s.targetKind = .reference) (hr : s.readAnswers = []) (a : Byte) :
    s.nextRead a = some (.byte (s.content a)) := by
  simp [State.nextRead, hk, hr]

/-- A read changes no register's content (R38), so two reads of one register of the reference target agree. -/
theorem memRead_content {a : Byte} {s t : State} {r : ReadReply} (h : memRead a s = some (r, t)) (b : Byte) :
    t.content b = s.content b := by
  obtain ⟨-, rfl⟩ := memRead_some h
  rfl

/-! The restart. -/

theorem baseOf_toNat {k : Nat} (hk : k < 16) : (baseOf k).toNat = 4 * k + 6 := by
  simp [baseOf, Config.regStride, Config.baseConst]
  omega

theorem withFlag_bit (b : Byte) : (withFlag b).getLsbD 4 = true := by
  simp [withFlag]

theorem allFullOff_wf {n : Nat} (hn : n ≤ 16) {m : Memory} (h : Memory.wf m = true) :
    Memory.wf (allFullOff n m) = true := by
  induction n with
  | zero => exact h
  | succ n ih =>
    refine land_wf (ih (by omega)) ?_
    rw [baseOf_toNat (by omega)]
    simp
    omega

theorem allFullOff_other {n : Nat} (hn : n ≤ 16) (m : Memory) {a : Nat} (ha : a < 6 ∨ 4 * n + 6 ≤ a) :
    Memory.read (allFullOff n m) a = Memory.read m a := by
  induction n with
  | zero => rfl
  | succ n ih =>
    simp only [allFullOff]
    rw [baseOf_toNat (by omega), read_land_outside (by simp; omega)]
    exact ih (by omega) (by omega)

theorem allForcedOff_wf (d : Nat) {n : Nat} (hn : n ≤ 16) {m : Memory} (h : Memory.wf m = true) :
    Memory.wf (allForcedOff d n m) = true := by
  induction n with
  | zero => exact h
  | succ n ih =>
    refine write_wf _ (ih (by omega)) ?_
    rw [baseOf_toNat (by omega)]
    omega

/-- After `allForcedOff` the OFF-high register of every channel is known to have the full-off override set. -/
theorem allForcedOff_read (d : Nat) {n : Nat} (hn : n ≤ 16) (m : Memory) {k : Nat} (hk : k < n) :
    ∃ b : Byte, Memory.read (allForcedOff d n m) (4 * k + 9) = some b ∧ b.getLsbD 4 = true := by
  induction n with
  | zero => omega
  | succ n ih =>
    simp only [allForcedOff]
    rw [baseOf_toNat (by omega)]
    rcases Nat.lt_or_eq_of_le (Nat.le_of_lt_succ hk) with h | rfl
    · rw [read_write_other (by omega)]
      exact ih (by omega) h
    · exact ⟨_, read_write_same _ _ _, withFlag_bit _⟩

/-! The step. -/

theorem step_idle {s : State} (h : s.host = []) : step s = .next s := by
  simp [step, takeMove, h]

theorem step_move {s : State} {m : HostMove} {rest : List HostMove} (h : s.host = m :: rest) :
    step s = applyMove m { s with host := rest } := by
  simp [step, takeMove, h]

theorem step_present (m : HostMove) (s : State) : step (present m s) = applyMove m s := rfl

/-! The meanings: each case a command can end in. -/

theorem execCfg_cases {ch : Nat} {off : Int} {scale : Nat} {s t : State} (h : execCfg ch off scale s = .next t) :
    (∃ e, checkChannel ch s = .error e ∧ t = raise e 0 0 s) ∨
    (∃ c, checkChannel ch s = .ok c ∧ BitVec.ofNat 16 scale = 0 ∧ t = raise .configError 0 0 s) ∨
    (∃ c, checkChannel ch s = .ok c ∧ BitVec.ofNat 16 scale ≠ 0 ∧
      t = acknowledge (s.configure ch c (BitVec.ofInt 16 off) (BitVec.ofNat 16 scale))) := by
  unfold execCfg at h
  cases hc : checkChannel ch s with
  | error e => rw [hc] at h; cases h; exact .inl ⟨e, rfl, rfl⟩
  | ok c =>
    rw [hc] at h
    by_cases hz : BitVec.ofNat 16 scale = 0
    · simp only [hz, if_true] at h; cases h; exact .inr (.inl ⟨c, rfl, hz, rfl⟩)
    · simp only [hz, if_false] at h; cases h; exact .inr (.inr ⟨c, rfl, hz, rfl⟩)

theorem execEnc_cases {ch : Nat} {duty : Int} {s t : State} (h : execEnc ch duty s = .next t) :
    (∃ e, checkChannel ch s = .error e ∧ t = raise e 0 0 s) ∨
    (∃ c, checkChannel ch s = .ok c ∧ t = encodedResponse c duty s) := by
  unfold execEnc at h
  cases hc : checkChannel ch s with
  | error e => rw [hc] at h; cases h; exact .inl ⟨e, rfl, rfl⟩
  | ok c => rw [hc] at h; cases h; exact .inr ⟨c, rfl, rfl⟩

theorem execDec_cases {ch raw : Nat} {s t : State} (h : execDec ch raw s = .next t) :
    (∃ e, checkChannel ch s = .error e ∧ t = raise e 0 Config.dutySentinel s) ∨
    (∃ c, checkChannel ch s = .ok c ∧ t = decodedResponse c raw s) := by
  unfold execDec at h
  cases hc : checkChannel ch s with
  | error e => rw [hc] at h; cases h; exact .inl ⟨e, rfl, rfl⟩
  | ok c => rw [hc] at h; cases h; exact .inr ⟨c, rfl, rfl⟩

theorem execSet_cases {ch : Nat} {duty : Int} {s t : State} (h : execSet ch duty s = .next t) :
    (∃ e, checkChannel ch s = .error e ∧ t = raise e 0 0 s) ∨
    (∃ c code landed u, checkChannel ch s = .ok c ∧
      memWrite c.base (c.encodeDuty duty).payload s = some (.fail code landed, u) ∧
      t = raise .transportFailure code 0 u) ∨
    (∃ c u, checkChannel ch s = .ok c ∧ memWrite c.base (c.encodeDuty duty).payload s = some (.ok, u) ∧
      t = encodedResponse c duty u) := by
  unfold execSet at h
  cases hc : checkChannel ch s with
  | error e => rw [hc] at h; cases h; exact .inl ⟨e, rfl, rfl⟩
  | ok c =>
    rw [hc] at h
    rcases hm : memWrite c.base (c.encodeDuty duty).payload s with _ | ⟨_ | ⟨code, landed⟩, u⟩
    · simp [hm] at h
    · simp only [hm] at h; cases h; exact .inr (.inr ⟨c, u, rfl, hm, rfl⟩)
    · simp only [hm] at h; cases h; exact .inr (.inl ⟨c, code, landed, u, rfl, hm, rfl⟩)

theorem getOnHigh_cases {c : CalEntry} {lo : Byte} {s t : State} (h : getOnHigh c lo s = .next t) :
    (∃ code u, memRead (c.base + 1) s = some (.fail code, u) ∧
      t = raise .transportFailure code Config.dutySentinel u) ∨
    (∃ hi u, memRead (c.base + 1) s = some (.byte hi, u) ∧ t = decodedResponse c (rawOf lo hi) u) := by
  unfold getOnHigh at h
  rcases hm : memRead (c.base + 1) s with _ | ⟨hi | code, u⟩
  · rw [hm] at h; cases h
  · rw [hm] at h; cases h; exact .inr ⟨hi, u, rfl, rfl⟩
  · rw [hm] at h; cases h; exact .inl ⟨code, u, rfl, rfl⟩

theorem execGet_cases {ch : Nat} {s t : State} (h : execGet ch s = .next t) :
    (∃ e, checkChannel ch s = .error e ∧ t = raise e 0 Config.dutySentinel s) ∨
    (∃ c code u, checkChannel ch s = .ok c ∧ memRead c.base s = some (.fail code, u) ∧
      t = raise .transportFailure code Config.dutySentinel u) ∨
    (∃ c lo code u v, checkChannel ch s = .ok c ∧ memRead c.base s = some (.byte lo, u) ∧
      memRead (c.base + 1) u = some (.fail code, v) ∧ t = raise .transportFailure code Config.dutySentinel v) ∨
    (∃ c lo hi u v, checkChannel ch s = .ok c ∧ memRead c.base s = some (.byte lo, u) ∧
      memRead (c.base + 1) u = some (.byte hi, v) ∧ t = decodedResponse c (rawOf lo hi) v) := by
  unfold execGet at h
  cases hc : checkChannel ch s with
  | error e => rw [hc] at h; cases h; exact .inl ⟨e, rfl, rfl⟩
  | ok c =>
    rw [hc] at h
    rcases hm : memRead c.base s with _ | ⟨lo | code, u⟩
    · simp [hm] at h
    · simp only [hm] at h
      rcases getOnHigh_cases h with ⟨code, v, h2, rfl⟩ | ⟨hi, v, h2, rfl⟩
      · exact .inr (.inr (.inl ⟨c, lo, code, u, v, rfl, hm, h2, rfl⟩))
      · exact .inr (.inr (.inr ⟨c, lo, hi, u, v, rfl, hm, h2, rfl⟩))
    · simp only [hm] at h; cases h; exact .inr (.inl ⟨c, code, u, rfl, hm, rfl⟩)

end Sys2Proof.Machine
end

