-- ==== Sys2Proof/Laws/Decode.lean ====
section
/-! SUPPORT. The fields of a packed command word, the word of its fields, and the operands a field gives back. -/

namespace Sys2Proof

section
variable (opc rsv : BitVec 4) (ch : Byte) (a b : Half)

@[simp] theorem opcField_pack : opcField (packCommand opc rsv ch a b) = opc := by
  simp only [opcField, packCommand]
  apply BitVec.eq_of_getLsbD_eq
  intro i h
  simp only [BitVec.getLsbD_extractLsb', BitVec.getLsbD_append]
  interval_cases i <;> simp

@[simp] theorem rsvField_pack : rsvField (packCommand opc rsv ch a b) = rsv := by
  simp only [rsvField, packCommand]
  apply BitVec.eq_of_getLsbD_eq
  intro i h
  simp only [BitVec.getLsbD_extractLsb', BitVec.getLsbD_append]
  interval_cases i <;> simp

@[simp] theorem chField_pack : chField (packCommand opc rsv ch a b) = ch := by
  simp only [chField, packCommand]
  apply BitVec.eq_of_getLsbD_eq
  intro i h
  simp only [BitVec.getLsbD_extractLsb', BitVec.getLsbD_append]
  interval_cases i <;> simp

@[simp] theorem aField_pack : aField (packCommand opc rsv ch a b) = a := by
  simp only [aField, packCommand]
  apply BitVec.eq_of_getLsbD_eq
  intro i h
  simp only [BitVec.getLsbD_extractLsb', BitVec.getLsbD_append]
  interval_cases i <;> simp

@[simp] theorem bField_pack : bField (packCommand opc rsv ch a b) = b := by
  simp only [bField, packCommand]
  apply BitVec.eq_of_getLsbD_eq
  intro i h
  simp only [BitVec.getLsbD_extractLsb', BitVec.getLsbD_append]
  interval_cases i <;> simp

end

/-- A word is the pack of its own five fields (R50). -/
theorem packCommand_fields (w : CommandWord) :
    packCommand (opcField w) (rsvField w) (chField w) (aField w) (bField w) = w := by
  simp only [packCommand, opcField, rsvField, chField, aField, bField]
  apply BitVec.eq_of_getLsbD_eq
  intro i h
  simp only [BitVec.getLsbD_extractLsb', BitVec.getLsbD_append]
  interval_cases i <;> simp

/-- Packing fields and masking them commute (R53). -/
theorem packCommand_and (opc rsv opc' rsv' : BitVec 4) (ch ch' : Byte) (a b a' b' : Half) :
    packCommand opc rsv ch a b &&& packCommand opc' rsv' ch' a' b' =
      packCommand (opc &&& opc') (rsv &&& rsv') (ch &&& ch') (a &&& a') (b &&& b') := by
  simp only [packCommand]
  apply BitVec.eq_of_getLsbD_eq
  intro i h
  simp only [BitVec.getLsbD_and, BitVec.getLsbD_append]
  split <;> try rfl
  split <;> try rfl
  split <;> try rfl
  split <;> rfl

theorem packCommand_inj {opc rsv opc' rsv' : BitVec 4} {ch ch' : Byte} {a b a' b' : Half} :
    packCommand opc rsv ch a b = packCommand opc' rsv' ch' a' b' ↔
      opc = opc' ∧ rsv = rsv' ∧ ch = ch' ∧ a = a' ∧ b = b' := by
  constructor
  · intro h
    exact ⟨by simpa using congrArg opcField h, by simpa using congrArg rsvField h, by simpa using congrArg chField h,
      by simpa using congrArg aField h, by simpa using congrArg bField h⟩
  · rintro ⟨rfl, rfl, rfl, rfl, rfl⟩
    rfl

theorem opcField_eq_of_toNat {w : CommandWord} {n : Nat} (h : (opcField w).toNat = n) : opcField w = BitVec.ofNat 4 n := by
  apply BitVec.eq_of_toNat_eq
  have := (opcField w).isLt
  simp [h]
  omega

/-- Every way a word can be a command (R53). -/
theorem decode_command_cases {w : CommandWord} {i : Instr} (h : decode w = .command i) :
    rsvField w = 0 ∧
    ((opcField w = 1 ∧ chField w = 0 ∧ aField w = 0 ∧ bField w = 0 ∧ i = .init) ∨
      (opcField w = 2 ∧ i = .cfg (chField w).toNat (aField w).toInt (bField w).toNat) ∨
      (opcField w = 3 ∧ bField w = 0 ∧ i = .enc (chField w).toNat (aField w).toInt) ∨
      (opcField w = 4 ∧ aField w = 0 ∧ i = .dec (chField w).toNat (bField w).toNat) ∨
      (opcField w = 5 ∧ bField w = 0 ∧ i = .set (chField w).toNat (aField w).toInt) ∨
      (opcField w = 6 ∧ aField w = 0 ∧ bField w = 0 ∧ i = .get (chField w).toNat)) := by
  unfold decode at h
  split at h
  · cases h
  · rename_i hr
    refine ⟨by simpa using hr, ?_⟩
    simp only [requireZero] at h
    split at h <;> rename_i ho
    · split at h <;> cases h
      rename_i hz
      simp at hz
      exact .inl ⟨opcField_eq_of_toNat ho, by simp [hz], by simp [hz], by simp [hz], rfl⟩
    · cases h; exact .inr (.inl ⟨opcField_eq_of_toNat ho, rfl⟩)
    · split at h <;> cases h
      rename_i hz
      exact .inr (.inr (.inl ⟨opcField_eq_of_toNat ho, by simpa using hz, rfl⟩))
    · split at h <;> cases h
      rename_i hz
      exact .inr (.inr (.inr (.inl ⟨opcField_eq_of_toNat ho, by simpa using hz, rfl⟩)))
    · split at h <;> cases h
      rename_i hz
      exact .inr (.inr (.inr (.inr (.inl ⟨opcField_eq_of_toNat ho, by simpa using hz, rfl⟩))))
    · split at h <;> cases h
      rename_i hz
      simp at hz
      exact .inr (.inr (.inr (.inr (.inr ⟨opcField_eq_of_toNat ho, hz.1, hz.2, rfl⟩))))
    · cases h

/-- An 8-bit unsigned operand survives its field (R51). -/
theorem ofNat8_toNat {v : Nat} (h : channelFits v = true) : (BitVec.ofNat 8 v).toNat = v := by
  simp only [channelFits, decide_eq_true_eq] at h
  simp; omega

/-- A 16-bit unsigned operand survives its field (R51). -/
theorem ofNat16_toNat {v : Nat} (h : unsignedFits v = true) : (BitVec.ofNat 16 v).toNat = v := by
  simp only [unsignedFits, decide_eq_true_eq] at h
  simp; omega

/-- A two's complement operand survives its field (R51). -/
theorem ofInt16_toInt {v : Int} (h : signedFits v = true) : (BitVec.ofInt 16 v).toInt = v := by
  simp only [signedFits, Bool.and_eq_true, decide_eq_true_eq] at h
  rw [BitVec.toInt_ofInt]
  exact Int.bmod_eq_of_le (by omega) (by omega)

end Sys2Proof
end

