-- ==== Sys2Proof/Laws/PerInstr.lean ====
section
/-! SUPPORT. The law stated and proved once per command: its encoding carries the operation code of R52 and a zero reserved
field (R50). -/

namespace Sys2Proof.Laws.OperationCode

/-- The operation code R52 gives a command. -/
def codeOf : Instr → BitVec 4
  | .init => 0x1
  | .cfg _ _ _ => 0x2
  | .enc _ _ => 0x3
  | .dec _ _ => 0x4
  | .set _ _ => 0x5
  | .get _ => 0x6

/-- The word of a command has its operation code, and `RSV = 0`. -/
def Statement (i : Instr) : Prop := opcField (encode i) = codeOf i ∧ rsvField (encode i) = 0

theorem init : Statement .init := by simp [Statement, encode, codeOf]

theorem cfg (ch : Nat) (off : Int) (scale : Nat) : Statement (.cfg ch off scale) := by
  simp [Statement, encode, codeOf]

theorem enc (ch : Nat) (duty : Int) : Statement (.enc ch duty) := by simp [Statement, encode, codeOf]

theorem dec (ch raw : Nat) : Statement (.dec ch raw) := by simp [Statement, encode, codeOf]

theorem set (ch : Nat) (duty : Int) : Statement (.set ch duty) := by simp [Statement, encode, codeOf]

theorem get (ch : Nat) : Statement (.get ch) := by simp [Statement, encode, codeOf]

end Sys2Proof.Laws.OperationCode
end

