-- ==== Sys2Proof/Certificates/Slice0/Obligations.lean ====
section
/-! DEFINITION. The statements for the provers, in the order of spec/: encodings, state and reset, calibration, codec, channel
commands, errors, bus and target, the whole machine. -/

namespace Sys2Proof.Claims
open Sys2Proof.Machine

/-- The scale factor `s = S / 256` as the rational it stands for (R9). -/
def scaleFactor (S : Nat) : ℚ := (S : ℚ) / 256

/-- The response of an error, field by field (R118). -/
def errorRsp (e : Err) (initd : Bool) (terr : Byte) (duty : DutyWord) : Rsp :=
  { err := e, initd := initd, foff := false, fon := false, ovf := false, eq := false, terr := terr, addr := 0
    payload := ⟨0, 0, 0, 0⟩, duty := duty }

/-- The response of a completed INIT or CFG, field by field (R65, R66). -/
def doneRsp : Rsp :=
  { err := .ok, initd := true, foff := false, fon := false, ovf := false, eq := false, terr := 0, addr := 0
    payload := ⟨0, 0, 0, 0⟩, duty := 0 }

/-- The response of a completed ENC or SET, field by field (R89, R95). -/
def encodedRsp (c : CalEntry) (duty : Int) : Rsp :=
  let e := codecEncode duty c.off.toInt c.scale.toNat
  { err := .ok, initd := true, foff := e.payload.offHi.getLsbD 4, fon := e.payload.onHi.getLsbD 4, ovf := e.ovf
    eq := e.eq, terr := 0, addr := c.base, payload := e.payload, duty := 0 }

/-- The response of a completed DEC or GET, field by field (R90, R96). -/
def decodedRsp (c : CalEntry) (raw : Nat) : Rsp :=
  { err := .ok, initd := true, foff := false, fon := false, ovf := false, eq := false, terr := 0, addr := 0
    payload := ⟨0, 0, 0, 0⟩, duty := BitVec.ofInt 32 (codecDecode raw c.off.toInt c.scale.toNat) }

/-- The state after one transaction of the encoder that is a read of register `a`. -/
def afterRead (s : State) (a : Byte) (r : ReadReply) : State :=
  { s with
    readAnswers := s.readAnswers.tail
    bus := s.bus ++ [⟨.encoder, Config.devAddr, a, .read r⟩]
    draw := s.draw + 1 }

/-- The state after one transaction of the encoder that is a 4-byte burst at register `a`. -/
def afterWrite (s : State) (a : Byte) (p : Payload) (r : WriteReply) : State :=
  { s with
    cells := s.afterBurst a p.bytes r
    cellsDraw := s.drawAfterBurst
    writeAnswers := s.writeAnswers.tail
    bus := s.bus ++ [⟨.encoder, Config.devAddr, a, .write [p.onLo, p.onHi, p.offLo, p.offHi] r.failure⟩]
    draw := s.draw + 1 }

/-- The channel a command names, if it names one (R53). -/
def channel? : Instr → Option Nat
  | .init => none
  | .cfg ch _ _ => some ch
  | .enc ch _ => some ch
  | .dec ch _ => some ch
  | .set ch _ => some ch
  | .get ch => some ch

/-- The commands whose failed response carries the sentinel (R19). -/
def answersDuty : Instr → Bool
  | .dec _ _ => true
  | .get _ => true
  | _ => false

/-- The commands whose response carries a payload and flags (R18, R19). -/
def answersPayload : Instr → Bool
  | .enc _ _ => true
  | .set _ _ => true
  | _ => false

/-- The transaction failed, with this code (R35). -/
def failedWith (x : Transaction) (code : Byte) : Prop :=
  (∃ bytes, x.op = .write bytes (some code)) ∨ x.op = .read (.fail code)

/-- `S` is a power of two up to the span (R75). -/
def powerOfTwo (S : Nat) : Prop := ∃ j, j ≤ 20 ∧ S = 2 ^ j

end Sys2Proof.Claims

section
open Sys2Proof Sys2Proof.Machine Sys2Proof.Claims

/-! Encodings. -/

/-- R50 to R53: no bit of a command's encoding is dropped. -/
def Obligations.DecodeOfEncodeGivesCommandBack : Prop :=
  ∀ i : Instr, i.wellFormed = true → decode (encode i) = .command i

/-- R50 to R55: a command word has one meaning and every command is the meaning of one word only; what the decoder reads is
well formed. -/
def Obligations.EncodeOfDecodeGivesWordBack : Prop :=
  ∀ w i, decode w = .command i → encode i = w ∧ i.wellFormed = true

/-- R53: the use of the fields by each command, and the match and mask rows. -/
def Obligations.CommandWordsFollowTable : Prop :=
  (encode .init).toNat = 0x100000000000 ∧
  (∀ ch off S, (Instr.cfg ch off S).wellFormed = true →
    (encode (.cfg ch off S)).toNat = 0x200000000000 + ch * 2 ^ 32 + (off % 65536).toNat * 2 ^ 16 + S) ∧
  (∀ ch duty, (Instr.enc ch duty).wellFormed = true →
    (encode (.enc ch duty)).toNat = 0x300000000000 + ch * 2 ^ 32 + (duty % 65536).toNat * 2 ^ 16) ∧
  (∀ ch raw, (Instr.dec ch raw).wellFormed = true →
    (encode (.dec ch raw)).toNat = 0x400000000000 + ch * 2 ^ 32 + raw) ∧
  (∀ ch duty, (Instr.set ch duty).wellFormed = true →
    (encode (.set ch duty)).toNat = 0x500000000000 + ch * 2 ^ 32 + (duty % 65536).toNat * 2 ^ 16) ∧
  (∀ ch, (Instr.get ch).wellFormed = true → (encode (.get ch)).toNat = 0x600000000000 + ch * 2 ^ 32) ∧
  (∀ w, ∀ r ∈ tableRows, r.matchesWord w = true ↔ ∃ i, decode w = .command i ∧ i.row = r) ∧
  (∀ w, ∀ r ∈ tableRows, ∀ r' ∈ tableRows, r.matchesWord w = true → r'.matchesWord w = true → r = r')

/-- R54, R115: which words are illegal, and that an illegal word completes with `IllegalCommand`, `DUTY = 0` and no other
effect, whatever `INITD` is. -/
def Obligations.IllegalWordsOnlyReport : Prop :=
  (∀ w, (∀ r ∈ tableRows, r.matchesWord w = false) ↔
    ((opcField w).toNat = 0 ∨ 7 ≤ (opcField w).toNat) ∨ rsvField w ≠ 0 ∨
    (opcField w = 1 ∧ (chField w ≠ 0 ∨ aField w ≠ 0 ∨ bField w ≠ 0)) ∨
    ((opcField w = 3 ∨ opcField w = 5) ∧ bField w ≠ 0) ∨
    (opcField w = 4 ∧ aField w ≠ 0) ∨
    (opcField w = 6 ∧ (aField w ≠ 0 ∨ bField w ≠ 0))) ∧
  (∀ w s, (∀ r ∈ tableRows, r.matchesWord w = false) →
    runWord w s = .next { s with rsp := errorRsp .illegalCommand s.initd 0 0 }) ∧
  (∀ r ∈ tableRows, r.matchesWord 0 = false)

/-- Words written out from the encodings of R65, R66, R89, R90, R95 and R96 (and the examples there), and three illegal words;
the name under which each of these is rejected is the model's own (assumption 14). -/
def Obligations.ExampleWordsDecode : Prop :=
  decode 0x100000000000 = .command .init ∧
  decode 0x2003FFF60280 = .command (.cfg 3 (-10) 640) ∧
  decode 0x3002FFFF0000 = .command (.enc 2 (-1)) ∧
  decode 0x400200000FA3 = .command (.dec 2 0x0FA3) ∧
  decode 0x500204000000 = .command (.set 2 1024) ∧
  decode 0x601000000000 = .command (.get 16) ∧
  decode 0x000000000000 = .illegal .opcode ∧
  decode 0x521000050000 = .illegal .reserved ∧
  decode 0x300200010001 = .illegal .mustBeZero

/-- R56: where each field of the record stands in the 88-bit word; the word gives the record back. -/
def Obligations.ResponseWordHoldsEveryField : Prop :=
  ∀ r : Rsp,
    r.word.extractLsb' 0 3 = r.err.code ∧ r.word.getLsbD 3 = r.initd ∧ r.word.getLsbD 4 = r.foff ∧
    r.word.getLsbD 5 = r.fon ∧ r.word.getLsbD 6 = r.ovf ∧ r.word.getLsbD 7 = r.eq ∧
    r.word.extractLsb' 8 8 = r.terr ∧ r.word.extractLsb' 16 8 = r.addr ∧
    r.word.extractLsb' 24 8 = r.payload.onLo ∧ r.word.extractLsb' 32 8 = r.payload.onHi ∧
    r.word.extractLsb' 40 8 = r.payload.offLo ∧ r.word.extractLsb' 48 8 = r.payload.offHi ∧
    r.word.extractLsb' 56 32 = r.duty ∧ Rsp.ofWord r.word = some r

/-- R57: the numbers of the error codes; 6 and 7 are never produced, and every word with another code is the word of one
record. -/
def Obligations.ErrorNumbers : Prop :=
  Err.ok.code = 0 ∧ Err.invalidChannel.code = 1 ∧ Err.configError.code = 2 ∧ Err.transportFailure.code = 3 ∧
  Err.notInitialized.code = 4 ∧ Err.illegalCommand.code = 5 ∧
  (∀ r : Rsp, r.word.extractLsb' 0 3 ≠ 6 ∧ r.word.extractLsb' 0 3 ≠ 7) ∧
  (∀ w : ResponseWord, w.extractLsb' 0 3 ≠ 6 → w.extractLsb' 0 3 ≠ 7 → ∃ r, Rsp.ofWord w = some r ∧ r.word = w)

/-! State and reset. -/

/-- R130 (values of R22): the reset's whole effect, on any state; and that the block does nothing of its own accord. What a
`CAL` field holds after a reset is a free value (assumption 1). The empty bus record at the machine's own reset is the model's
(assumption 10), and that a reset of the block leaves the target's registers, the auto-increment assurance, the scripts, the
host's further moves and the bus record as they are is the model's deduction (assumption 19). -/
def Obligations.ResetClearsBlockAndNothingElse : Prop :=
  State.reset.initd = false ∧ State.reset.rsp.word = 0 ∧ State.reset.bus = [] ∧
  (∀ k, k < 16 → State.reset.entry k = some (Config.unspecifiedCal 0 k)) ∧
  (∀ s : State, ∃ t, step (present .resetBlock s) = .next t ∧ t.initd = false ∧ t.rsp.word = 0 ∧
    (∀ k, k < 16 → t.entry k = some (Config.unspecifiedCal s.draw k)) ∧
    t = { s with cal := t.cal, initd := t.initd, rsp := t.rsp, draw := s.draw + 1 }) ∧
  (∀ s : State, s.host = [] → step s = .next s)

/-- The invariant of the model holds after reset. -/
def Obligations.LegalAtReset : Prop := State.reset.Inv

/-- Every step from a legal state, whatever the host does and whatever the target answers, ends in a legal state: the
calibration keeps `base = 4k + 6` and a positive scale once initialised (R12, R13), `RSP.INITD` is the initialised bit, the
response record keeps the promises of R17 to R19, the target registers keep their canonical form, and every transaction
keeps those of R30, R35, R36, R46, R125 and R126 (the record of transactions is the model's own, assumption 10). -/
def Obligations.EveryStepKeepsLegality : Prop :=
  ∀ s t : State, s.Inv → step s = .next t → t.Inv

/-- R15: the initialised bit. -/
def Obligations.InitialisedBitRules : Prop :=
  State.reset.initd = false ∧
  (∀ s t, exec .init s = .next t → t.initd = true) ∧
  (∀ i s t, exec i s = .next t → s.initd = true → t.initd = true) ∧
  (∀ w s t, runWord w s = .next t → t.rsp.word.getLsbD 3 = t.initd) ∧
  (∀ i s, i ≠ .init → s.initd = false → ∃ t, exec i s = .next t ∧ t.rsp.err = .notInitialized ∧
    t = { s with rsp := t.rsp })

/-! Calibration commands. -/

/-- R65: INIT completes in every state, with all 16 entries at their defaults; its one word; any other word with its
operation code is illegal. -/
def Obligations.InitRestoresDefaults : Prop :=
  encode .init = 0x100000000000 ∧
  (∀ w s, opcField w = 1 → w ≠ 0x100000000000 →
    runWord w s = .next { s with rsp := errorRsp .illegalCommand s.initd 0 0 }) ∧
  (∀ s, ∃ t, exec .init s = .next t ∧
    (∀ k, k < 16 → t.entry k = some ⟨BitVec.ofNat 8 (4 * k + 6), 0, 0x0400⟩) ∧
    t.initd = true ∧ t.rsp = doneRsp ∧ t = { s with cal := t.cal, initd := t.initd, rsp := t.rsp })

/-- R66: CFG overwrites one channel's offset and scale and completes, or reports the first of its three errors; every value
of its three fields decodes. -/
def Obligations.CfgWritesOffsetAndScale : Prop :=
  ∀ ch off S s, (Instr.cfg ch off S).wellFormed = true →
    (s.initd = false → exec (.cfg ch off S) s = .next { s with rsp := errorRsp .notInitialized false 0 0 }) ∧
    (s.initd = true → 16 ≤ ch →
      exec (.cfg ch off S) s = .next { s with rsp := errorRsp .invalidChannel true 0 0 }) ∧
    (s.initd = true → ch < 16 → S = 0 →
      exec (.cfg ch off S) s = .next { s with rsp := errorRsp .configError true 0 0 }) ∧
    (s.initd = true → ch < 16 → S ≠ 0 → ∃ t, exec (.cfg ch off S) s = .next t ∧ t.rsp = doneRsp ∧
      (∃ c d, s.entry ch = some c ∧ t.entry ch = some d ∧ d.base = c.base ∧ d.off.toInt = off ∧ d.scale.toNat = S) ∧
      (∀ k, k ≠ ch → t.entry k = s.entry k) ∧ t = { s with cal := t.cal, rsp := t.rsp }) ∧
    (∀ w, opcField w = 2 → rsvField w = 0 →
      decode w = .command (.cfg (chField w).toNat (aField w).toInt (bField w).toNat))

/-- R67: a CFG that completes with any error writes only `RSP`. -/
def Obligations.FailedCfgChangesNoCalibration : Prop :=
  ∀ ch off S s t, exec (.cfg ch off S) s = .next t → t.rsp.err ≠ .ok →
    t = { s with rsp := t.rsp } ∧ (∀ k, t.entry k = s.entry k) ∧ t.initd = s.initd

/-- R68: a CFG that completes with `ERR = 0` changes exactly the offset and the scale of the one channel named. -/
def Obligations.CfgChangesTwoFieldsOnly : Prop :=
  ∀ ch off S s t, exec (.cfg ch off S) s = .next t → t.rsp.err = .ok →
    (∀ k, k ≠ ch → t.entry k = s.entry k) ∧
    (∃ c, s.entry ch = some c ∧ t.entry ch = some ⟨c.base, BitVec.ofInt 16 off, BitVec.ofNat 16 S⟩) ∧
    t = { s with cal := t.cal, rsp := t.rsp }

/-- The spec's own inference (40_calibration.md R69 and 41_codec.md R87, marked derived there): the default calibration
after INIT, its three classes, its points and its round trip. -/
def Obligations.DefaultCalibrationTable : Prop :=
  ∀ s t k c, exec .init s = .next t → t.entry k = some c →
    ceilOf c.scale.toNat = 1024 ∧
    (∀ duty, duty ≤ 0 → (c.encodeDuty duty).payload = ⟨0x00, 0x00, 0x00, 0x10⟩) ∧
    (∀ duty, 1024 ≤ duty → (c.encodeDuty duty).payload = ⟨0x00, 0x10, 0x00, 0x00⟩) ∧
    (∀ duty, 1 ≤ duty → duty ≤ 1023 →
      ((rawOf (c.encodeDuty duty).payload.onLo (c.encodeDuty duty).payload.onHi : Nat) : Int) = 4096 - 4 * duty ∧
      rawOf (c.encodeDuty duty).payload.offLo (c.encodeDuty duty).payload.offHi = 0 ∧
      (c.encodeDuty duty).ovf = false ∧ (c.encodeDuty duty).eq = false ∧
      (c.decodeRaw (rawOf (c.encodeDuty duty).payload.onLo (c.encodeDuty duty).payload.onHi)).toInt = duty)

/-- The spec's own inference (40_calibration.md R70, marked derived there): which caller ranges 0 to `M` have an exact scale
number, where full-on then begins, and the collision at `Ceil(S)` for every other scale number. -/
def Obligations.CallerRangesWithExactScale : Prop :=
  (∀ M S : Nat, S * M = 1048576 → S ≤ 65535 →
    (∃ j, 5 ≤ j ∧ j ≤ 20 ∧ M = 2 ^ j) ∧ ∀ duty, 0 < duty → (classOf duty S = .fullOn ↔ (M : Int) ≤ duty)) ∧
  (∀ j, 5 ≤ j → j ≤ 20 → ∃ S : Nat, 1 ≤ S ∧ S ≤ 65535 ∧ S * 2 ^ j = 1048576) ∧
  (∀ S : Nat, 1 ≤ S → S ≤ 65535 → ¬ S ∣ 1048576 →
    classOf (ceilOf S) S = .interior ∧ (codecEncode (ceilOf S) 0 S).eq = true ∧
    (codecEncode (ceilOf S) 0 S).payload = ⟨0, 0, 0, 0⟩)

/-! The register codec. -/

/-- R75: `Ceil(S) = floor(4096 / s)`, its integer form, its range, when it is exact, and the rule's own values. -/
def Obligations.CeilIsFlooredSpan : Prop :=
  (∀ S : Nat, 1 ≤ S →
    ceilOf S = ⌊4096 / scaleFactor S⌋ ∧ ceilOf S = 1048576 / (S : Int) ∧
    (S ≤ 65535 → 16 ≤ ceilOf S ∧ ceilOf S ≤ 1048576) ∧
    ((∃ n : Int, 4096 / scaleFactor S = n) ↔ S ∣ 1048576) ∧ (S ∣ 1048576 ↔ powerOfTwo S)) ∧
  ceilOf 0x0400 = 1024 ∧ ceilOf 0x0100 = 4096 ∧ ceilOf 0x0280 = 1638 ∧ ceilOf 0x0300 = 1365 ∧ ceilOf 0x0080 = 8192 ∧
  ceilOf 0x0419 = 999 ∧ ceilOf 0xFFFF = 16 ∧ ceilOf 0x0001 = 1048576

/-- R76: the three classes of a duty cycle, by the source's own comparison `dutyCycle * scaleFactor >= 4096`, exact; and the
payload of the two end classes whatever the offset and scale. -/
def Obligations.DutyClassesByExactComparison : Prop :=
  ∀ (duty : Int) (S : Nat), 1 ≤ S →
    (classOf duty S = .fullOff ↔ duty ≤ 0) ∧
    (classOf duty S = .fullOn ↔ 0 < duty ∧ 4096 ≤ (duty : ℚ) * scaleFactor S) ∧
    (classOf duty S = .interior ↔ 0 < duty ∧ (duty : ℚ) * scaleFactor S < 4096) ∧
    (∀ off, duty ≤ 0 → (codecEncode duty off S).payload = Payload.fullOff) ∧
    (∀ off, 0 < duty → 4096 ≤ (duty : ℚ) * scaleFactor S → (codecEncode duty off S).payload = Payload.fullOn)

/-- R59, R60, R77: the two override payloads and their flags, whatever the offset and, beyond the class test, the scale. -/
def Obligations.OverridePayloadsAreConstant : Prop :=
  ∀ (duty off : Int) (S : Nat),
    (duty ≤ 0 → codecEncode duty off S = ⟨⟨0x00, 0x00, 0x00, 0x10⟩, false, false⟩ ∧
      foffFlag (codecEncode duty off S).payload = true ∧ fonFlag (codecEncode duty off S).payload = false) ∧
    (0 < duty → 1048576 ≤ duty * (S : Int) → codecEncode duty off S = ⟨⟨0x00, 0x10, 0x00, 0x00⟩, false, false⟩ ∧
      foffFlag (codecEncode duty off S).payload = false ∧ fonFlag (codecEncode duty off S).payload = true)

/-- R78: the two points of an interior duty cycle, by the source's rational formulas, their bytes and the flags. -/
def Obligations.InteriorPayloadHoldsFlooredPoints : Prop :=
  ∀ (duty off : Int) (S : Nat), 1 ≤ S → classOf duty S = .interior →
    let e := codecEncode duty off S
    let on := ⌊(((ceilOf S - duty) + off : Int) : ℚ) * scaleFactor S⌋
    let ofp := ⌊(off : ℚ) * scaleFactor S⌋
    (e.payload.onLo.toNat : Int) = on % 4096 % 256 ∧ (e.payload.onHi.toNat : Int) = on % 4096 / 256 ∧
    (e.payload.offLo.toNat : Int) = ofp % 4096 % 256 ∧ (e.payload.offHi.toNat : Int) = ofp % 4096 / 256 ∧
    foffFlag e.payload = false ∧ fonFlag e.payload = false ∧
    (e.ovf = true ↔ on < 0 ∨ 4095 < on ∨ ofp < 0 ∨ 4095 < ofp) ∧ (e.eq = true ↔ on % 4096 = ofp % 4096)

/-- R79: `Pack12` is reduction modulo 4096, the low 12 bits of the two's complement form, and the value itself in range; it
keeps bits [7:4] of both high bytes of an interior payload 0, and a reduction that changed a point raises `OVF`. -/
def Obligations.PackIsLowTwelveBits : Prop :=
  (∀ v : Int, (pack12 v : Int) = v % 4096 ∧ pack12 v < 4096 ∧ (BitVec.ofInt 12 v).toNat = pack12 v ∧
    ((BitVec.ofInt 64 v).extractLsb' 0 12).toNat = pack12 v) ∧
  (∀ v : Int, 0 ≤ v → v ≤ 4095 → (pack12 v : Int) = v) ∧
  (∀ (duty off : Int) (S : Nat), classOf duty S = .interior →
    (codecEncode duty off S).payload.onHi.toNat < 16 ∧ (codecEncode duty off S).payload.offHi.toNat < 16 ∧
    ((pack12 (onPoint duty off S) : Int) ≠ onPoint duty off S ∨ (pack12 (offPoint off S) : Int) ≠ offPoint off S →
      (codecEncode duty off S).ovf = true)) ∧
  pack12 4132 = 36 ∧ pack12 (-40) = 4056 ∧ pack12 (-25) = 4071 ∧ pack12 4096 = 0 ∧ pack12 (-4096) = 0

/-- The spec's own inference (41_codec.md, Exclusivity, marked derived there): no payload has both override bits, neither is
set exactly for interior payloads, and bits [7:5] of both high bytes are 0. -/
def Obligations.OverridesAreExclusive : Prop :=
  ∀ (duty off : Int) (S : Nat),
    ¬ (foffFlag (codecEncode duty off S).payload = true ∧ fonFlag (codecEncode duty off S).payload = true) ∧
    (foffFlag (codecEncode duty off S).payload = false ∧ fonFlag (codecEncode duty off S).payload = false ↔
      classOf duty S = .interior) ∧
    (codecEncode duty off S).payload.onHi.toNat < 32 ∧ (codecEncode duty off S).payload.offHi.toNat < 32

/-- The spec's own inference (41_codec.md, facts about the interior class, items 1 and 2, marked derived there). -/
def Obligations.InteriorDutyRange : Prop :=
  ∀ (duty : Int) (S : Nat), 1 ≤ S →
    (classOf duty S = .interior → 1 ≤ duty ∧ duty ≤ ceilOf S) ∧
    (S ≤ 65535 → (classOf (ceilOf S) S = .interior ↔ ¬ S ∣ 1048576))

/-- The spec's own inference (41_codec.md, facts about the interior class, item 3, marked derived there): the flags with
offset 0. -/
def Obligations.FlagsWithZeroOffset : Prop :=
  ∀ (duty : Int) (S : Nat), 1 ≤ S → classOf duty S = .interior →
    offPoint 0 S = 0 ∧ 0 ≤ onPoint duty 0 S ∧ onPoint duty 0 S ≤ 4095 ∧
    (codecEncode duty 0 S).ovf = false ∧
    ((codecEncode duty 0 S).eq = true ↔ (ceilOf S - duty) * (S : Int) < 256) ∧
    (256 ≤ S → ((codecEncode duty 0 S).eq = true ↔ duty = ceilOf S)) ∧
    (S < 256 → ((codecEncode duty 0 S).eq = true ↔ (ceilOf S : ℚ) - 256 / (S : ℚ) < duty))

/-- The spec's own inference (41_codec.md, facts about the interior class, item 5, marked derived there): a higher duty
cycle never has a higher ON point. -/
def Obligations.OnPointFallsAsDutyRises : Prop :=
  ∀ (duty duty' off : Int) (S : Nat), 1 ≤ S → duty ≤ duty' → onPoint duty' off S ≤ onPoint duty off S

/-- The spec's own inference (41_codec.md, facts about the interior class, item 6, marked derived there): when a collision
is possible with any offset. -/
def Obligations.CollisionOnlyAtTheEdges : Prop :=
  ∀ (duty off : Int) (S : Nat), 1 ≤ S → classOf duty S = .interior →
    (ceilOf S - duty) * (S : Int) - 256 < 256 * (onPoint duty off S - offPoint off S) ∧
    256 * (onPoint duty off S - offPoint off S) < (ceilOf S - duty) * (S : Int) + 256 ∧
    ((codecEncode duty off S).eq = true →
      (ceilOf S - duty) * (S : Int) < 256 ∨ 4095 * 256 < (ceilOf S - duty) * (S : Int))

/-- R83: `Decode` is the inverse of the interior formula under one floor, over all 16 bits of the ON pair. -/
def Obligations.DecodeIsFlooredInverse : Prop :=
  (∀ (raw : Nat) (off : Int) (S : Nat), 1 ≤ S →
    codecDecode raw off S = ⌊((ceilOf S + off : Int) : ℚ) - (raw : ℚ) / scaleFactor S⌋ ∧
    codecDecode raw off S = ceilOf S + off - ⌈(raw : ℚ) * 256 / (S : ℚ)⌉ ∧
    codecDecode raw off S = ceilOf S + off - ((raw : Int) * 256 + S - 1) / (S : Int)) ∧
  (∀ lo hi : Byte, rawOf lo hi = lo.toNat + 256 * hi.toNat)

/-- The spec's own inference (41_codec.md, the range of Decode, marked derived there): the result field never overflows. -/
def Obligations.DecodeFitsResultField : Prop :=
  ∀ (c : CalEntry) (raw : Nat), c.scale ≠ 0 → raw < 65536 →
    -15761152 ≤ codecDecode raw c.off.toInt c.scale.toNat ∧ codecDecode raw c.off.toInt c.scale.toNat ≤ 1081343 ∧
    (c.decodeRaw raw).toInt = codecDecode raw c.off.toInt c.scale.toNat

/-- The spec's own inference (41_codec.md, round-trip law, marked derived there): decoding the ON pair of an
interior payload whose ON point was not reduced gives the duty cycle back, for every scale factor of at least 1. -/
def Obligations.InteriorDutyRoundTrips : Prop :=
  ∀ (duty off : Int) (S : Nat), 256 ≤ S → classOf duty S = .interior → 0 ≤ onPoint duty off S → onPoint duty off S ≤ 4095 →
    codecDecode (rawOf (codecEncode duty off S).payload.onLo (codecEncode duty off S).payload.onHi) off S = duty

/-- R86: what an override payload decodes to; the formula has no case for it. -/
def Obligations.OverridePayloadsDecodeByFormula : Prop :=
  (∀ (duty off : Int) (S : Nat), 1 ≤ S → classOf duty S = .fullOff →
    codecDecode (rawOf (codecEncode duty off S).payload.onLo (codecEncode duty off S).payload.onHi) off S
      = ceilOf S + off) ∧
  (∀ (duty off : Int) (S : Nat), 1 ≤ S → classOf duty S = .fullOn →
    codecDecode (rawOf (codecEncode duty off S).payload.onLo (codecEncode duty off S).payload.onHi) off S
      = ceilOf S + off - ⌈4096 / scaleFactor S⌉ ∧
    (powerOfTwo S →
      codecDecode (rawOf (codecEncode duty off S).payload.onLo (codecEncode duty off S).payload.onHi) off S = off)) ∧
  codecDecode 0 0 0x0400 = 1024 ∧ codecDecode 0x1000 0 0x0400 = 0

/-- The spec's own inference (70_reset_and_hazards.md, ON point equal to OFF point, which rests on the derived facts of the
interior class): with offset 0 and a scale factor of at least 1 that divides the span, no duty cycle collides or is
reduced. -/
def Obligations.CollisionFreeScales : Prop :=
  ∀ (duty : Int) (S : Nat), collisionFreeScale S → S ≤ 65535 →
    (codecEncode duty 0 S).eq = false ∧ (codecEncode duty 0 S).ovf = false ∧
    (S = 0x0100 ∨ S = 0x0200 ∨ S = 0x0400 ∨ S = 0x0800 ∨ S = 0x1000 ∨ S = 0x2000 ∨ S = 0x4000 ∨ S = 0x8000)

/-! The codec commands. -/

/-- R89: ENC completes with the payload, the flags and the base address, or reports the first of its errors; it writes
`RSP` only and makes no transaction. -/
def Obligations.EncResponds : Prop :=
  ∀ ch duty s,
    (s.initd = false → exec (.enc ch duty) s = .next { s with rsp := errorRsp .notInitialized false 0 0 }) ∧
    (s.initd = true → 16 ≤ ch → exec (.enc ch duty) s = .next { s with rsp := errorRsp .invalidChannel true 0 0 }) ∧
    (s.initd = true → ∀ c, s.entry ch = some c →
      exec (.enc ch duty) s = .next { s with rsp := encodedRsp c duty }) ∧
    (∀ w, opcField w = 3 → rsvField w = 0 → bField w = 0 → decode w = .command (.enc (chField w).toNat (aField w).toInt)) ∧
    (∀ w, opcField w = 3 → bField w ≠ 0 →
      runWord w s = .next { s with rsp := errorRsp .illegalCommand s.initd 0 0 })

/-- R90: DEC completes with the decoded duty cycle, or reports the first of its errors with `DUTY = -1`; it writes `RSP`
only and makes no transaction. -/
def Obligations.DecResponds : Prop :=
  ∀ ch raw s,
    (s.initd = false →
      exec (.dec ch raw) s = .next { s with rsp := errorRsp .notInitialized false 0 (BitVec.ofInt 32 (-1)) }) ∧
    (s.initd = true → 16 ≤ ch →
      exec (.dec ch raw) s = .next { s with rsp := errorRsp .invalidChannel true 0 (BitVec.ofInt 32 (-1)) }) ∧
    (s.initd = true → ∀ c, s.entry ch = some c →
      exec (.dec ch raw) s = .next { s with rsp := decodedRsp c raw }) ∧
    (∀ w, opcField w = 4 → rsvField w = 0 → aField w = 0 → decode w = .command (.dec (chField w).toNat (bField w).toNat)) ∧
    (∀ w, opcField w = 4 → aField w ≠ 0 →
      runWord w s = .next { s with rsp := errorRsp .illegalCommand s.initd 0 0 })

/-- R91: ENC and DEC read one `CAL` entry and `INITD`, and write only `RSP`: two states that agree on these give the same
response. -/
def Obligations.CodecCommandsArePure : Prop :=
  ∀ i s s' t, (∃ ch duty, i = .enc ch duty) ∨ (∃ ch raw, i = .dec ch raw) →
    s.initd = s'.initd → (∀ ch, channel? i = some ch → s.entry ch = s'.entry ch) → exec i s = .next t →
    t = { s with rsp := t.rsp } ∧ exec i s' = .next { s' with rsp := t.rsp }

/-! The channel commands. -/

/-- After R95: SET makes exactly one burst, at the channel's base, of the encoded payload, whatever its flags are, and responds;
or it reports the first of its errors. Its one stop, where the transaction never returns (after U11 and R141), is the model's
deduction (assumption 7), and so is what the target's registers hold after the burst (assumptions 4 and 5). -/
def Obligations.SetWritesPayload : Prop :=
  ∀ ch duty s,
    (s.initd = false → exec (.set ch duty) s = .next { s with rsp := errorRsp .notInitialized false 0 0 }) ∧
    (s.initd = true → 16 ≤ ch → exec (.set ch duty) s = .next { s with rsp := errorRsp .invalidChannel true 0 0 }) ∧
    (s.initd = true → ∀ c, s.entry ch = some c →
      (s.nextWrite = some .ok → exec (.set ch duty) s =
        .next { afterWrite s c.base (codecEncode duty c.off.toInt c.scale.toNat).payload .ok with
          rsp := encodedRsp c duty }) ∧
      (∀ code landed, s.nextWrite = some (.fail code landed) → exec (.set ch duty) s =
        .next { afterWrite s c.base (codecEncode duty c.off.toInt c.scale.toNat).payload (.fail code landed) with
          rsp := errorRsp .transportFailure true code 0 }) ∧
      (s.nextWrite = none → exec (.set ch duty) s = .fault .neverReturns)) ∧
    (∀ w, opcField w = 5 → rsvField w = 0 → bField w = 0 → decode w = .command (.set (chField w).toNat (aField w).toInt)) ∧
    (∀ w, opcField w = 5 → bField w ≠ 0 →
      runWord w s = .next { s with rsp := errorRsp .illegalCommand s.initd 0 0 })

/-- After R96: GET reads ON-low, then ON-high, and responds with the decoded pair; a failed first read is the last; or it
reports the first of its errors, with `DUTY = -1`. Its one stop, where a transaction never returns (after U11 and R141), is
the model's deduction (assumption 7). -/
def Obligations.GetReadsOnPair : Prop :=
  ∀ ch s,
    (s.initd = false →
      exec (.get ch) s = .next { s with rsp := errorRsp .notInitialized false 0 (BitVec.ofInt 32 (-1)) }) ∧
    (s.initd = true → 16 ≤ ch →
      exec (.get ch) s = .next { s with rsp := errorRsp .invalidChannel true 0 (BitVec.ofInt 32 (-1)) }) ∧
    (s.initd = true → ∀ c, s.entry ch = some c →
      (s.nextRead c.base = none → exec (.get ch) s = .fault .neverReturns) ∧
      (∀ code, s.nextRead c.base = some (.fail code) → exec (.get ch) s =
        .next { afterRead s c.base (.fail code) with
          rsp := errorRsp .transportFailure true code (BitVec.ofInt 32 (-1)) }) ∧
      (∀ lo, s.nextRead c.base = some (.byte lo) →
        ((afterRead s c.base (.byte lo)).nextRead (c.base + 1) = none →
          exec (.get ch) s = .fault .neverReturns) ∧
        (∀ code, (afterRead s c.base (.byte lo)).nextRead (c.base + 1) = some (.fail code) → exec (.get ch) s =
          .next { afterRead (afterRead s c.base (.byte lo)) (c.base + 1) (.fail code) with
            rsp := errorRsp .transportFailure true code (BitVec.ofInt 32 (-1)) }) ∧
        (∀ hi, (afterRead s c.base (.byte lo)).nextRead (c.base + 1) = some (.byte hi) → exec (.get ch) s =
          .next { afterRead (afterRead s c.base (.byte lo)) (c.base + 1) (.byte hi) with
            rsp := decodedRsp c (lo.toNat + 256 * hi.toNat) }))) ∧
    (∀ w, opcField w = 6 → rsvField w = 0 → aField w = 0 → bField w = 0 → decode w = .command (.get (chField w).toNat)) ∧
    (∀ w, opcField w = 6 → (aField w ≠ 0 ∨ bField w ≠ 0) →
      runWord w s = .next { s with rsp := errorRsp .illegalCommand s.initd 0 0 })

/-- After R32, R35 and R38: where a SET stores, computed as SET computes it, and that it stores nowhere else. On a target
assured to advance its register address, a good burst puts byte `i` of the payload in register `base + i` (that a target
which answered ok holds the bytes is the model's deduction, assumption 5); a failed one leaves in each of the four the old
byte or the new one; every other register is as before, listed byte and content, and all of them where a check failed. -/
def Obligations.SetStoresOnlyItsFourRegisters : Prop :=
  ∀ ch duty s t, s.burstAssured = true → exec (.set ch duty) s = .next t →
    (t.rsp.err = .notInitialized ∨ t.rsp.err = .invalidChannel →
      (∀ a, Memory.read t.cells a = Memory.read s.cells a) ∧ (∀ a, t.content a = s.content a)) ∧
    (∀ c, s.initd = true → s.entry ch = some c → c.base.toNat ≤ 252 →
      (∀ a, a < c.base.toNat ∨ c.base.toNat + 4 ≤ a → Memory.read t.cells a = Memory.read s.cells a) ∧
      (∀ a : Byte, a.toNat < c.base.toNat ∨ c.base.toNat + 4 ≤ a.toNat → t.content a = s.content a) ∧
      (t.rsp.err = .ok → ∀ i, i < 4 → Memory.read t.cells (c.base.toNat + i) =
        (codecEncode duty c.off.toInt c.scale.toNat).payload.bytes[i]?) ∧
      (t.rsp.err = .transportFailure → ∀ i, i < 4 →
        Memory.read t.cells (c.base.toNat + i) = Memory.read s.cells (c.base.toNat + i) ∨
        Memory.read t.cells (c.base.toNat + i) =
          (codecEncode duty c.off.toInt c.scale.toNat).payload.bytes[i]?))

/-- R10, R21, R36: the frame of the five commands that store nothing. `CAL` may change only by INIT and CFG, `INITD` only by
INIT; every target register, the target's and the host's state stay; GET alone uses up answers and the bus. -/
def Obligations.NonStoringCommandsFrame : Prop :=
  ∀ i s t, (∀ ch duty, i ≠ .set ch duty) → exec i s = .next t →
    (∀ a, Memory.read t.cells a = Memory.read s.cells a) ∧ (∀ a, t.content a = s.content a) ∧
    t.cellsDraw = s.cellsDraw ∧ t.autoInc = s.autoInc ∧ t.targetKind = s.targetKind ∧ t.writeAnswers = s.writeAnswers ∧
    t.host = s.host ∧
    ((∀ ch, i ≠ .get ch) → t.readAnswers = s.readAnswers ∧ t.bus = s.bus ∧ t.draw = s.draw) ∧
    (i ≠ .init → t.initd = s.initd ∧ ((∀ ch off S, i ≠ .cfg ch off S) → ∀ k, t.entry k = s.entry k))

/-- After R10 and R95: the frame of SET besides the target's registers: it writes `RSP` only, of the block's own state. On a
target not assured to advance its register address the model says nothing of any register after a burst (its choice, after
N9 and V6: assumption 4); on any other it draws no register afresh. -/
def Obligations.SetFrame : Prop :=
  ∀ ch duty s t, exec (.set ch duty) s = .next t →
    (∀ k, t.entry k = s.entry k) ∧ t.initd = s.initd ∧ t.autoInc = s.autoInc ∧ t.targetKind = s.targetKind ∧
    t.readAnswers = s.readAnswers ∧ t.host = s.host ∧
    (s.burstAssured = true ∨ t.rsp.err = .notInitialized ∨ t.rsp.err = .invalidChannel → t.cellsDraw = s.cellsDraw) ∧
    (s.burstAssured = false → t.rsp.err = .ok ∨ t.rsp.err = .transportFailure → ∀ a, Memory.read t.cells a = none)

/-- R95, corner case: a SET with `ERR = 0` has the same `RSP` as the ENC with the same operands. -/
def Obligations.SetRespondsAsEnc : Prop :=
  ∀ ch duty s t, exec (.set ch duty) s = .next t → t.rsp.err = .ok →
    exec (.enc ch duty) s = .next { s with rsp := t.rsp }

/-! Errors. -/

/-- R100: SET and GET check before they form any address or start any transaction, and so does an illegal word. -/
def Obligations.ChecksComeBeforeBus : Prop :=
  (∀ i s, (∃ ch duty, i = .set ch duty ∧ (s.initd = false ∨ 16 ≤ ch)) ∨ (∃ ch, i = .get ch ∧ (s.initd = false ∨ 16 ≤ ch)) →
    ∃ t, exec i s = .next t ∧ (t.rsp.err = .notInitialized ∨ t.rsp.err = .invalidChannel) ∧ t.bus = s.bus ∧
      (∀ a, Memory.read t.cells a = Memory.read s.cells a) ∧ t = { s with rsp := t.rsp }) ∧
  (∀ w why s, decode w = .illegal why → ∃ t, runWord w s = .next t ∧ t.rsp.err = .illegalCommand ∧ t.bus = s.bus ∧
    (∀ a, Memory.read t.cells a = Memory.read s.cells a))

/-- R117: of several causes, the first in the order IllegalCommand, NotInitialized, InvalidChannel, ConfigError,
TransportFailure is reported. -/
def Obligations.FirstCauseIsReported : Prop :=
  (∀ w why s, decode w = .illegal why → ∃ t, runWord w s = .next t ∧ t.rsp.err = .illegalCommand) ∧
  (∀ w i s, decode w = .command i → runWord w s = exec i s) ∧
  (∀ i s, i ≠ .init → s.initd = false → ∃ t, exec i s = .next t ∧ t.rsp.err = .notInitialized) ∧
  (∀ i s ch, s.initd = true → channel? i = some ch → 16 ≤ ch →
    ∃ t, exec i s = .next t ∧ t.rsp.err = .invalidChannel) ∧
  (∀ ch off s, s.initd = true → ch < 16 → ∃ t, exec (.cfg ch off 0) s = .next t ∧ t.rsp.err = .configError) ∧
  (∀ i s t, exec i s = .next t → t.rsp.err = .transportFailure →
    s.initd = true ∧ ((∃ ch duty, i = .set ch duty ∧ ch < 16) ∨ (∃ ch, i = .get ch ∧ ch < 16)))

/-- R118: what an error writes, that it writes nothing else of the block, and that no transaction follows it. -/
def Obligations.ErrorWritesOnlyResponse : Prop :=
  (∀ i s t, exec i s = .next t → t.rsp.err ≠ .ok →
    t.rsp = errorRsp t.rsp.err s.initd t.rsp.terr (if answersDuty i then BitVec.ofInt 32 (-1) else 0) ∧
    (t.rsp.err ≠ .transportFailure → t.rsp.terr = 0 ∧ t = { s with rsp := t.rsp }) ∧
    (t.rsp.err = .transportFailure → ∃ xs x, t.bus = s.bus ++ xs ++ [x] ∧ failedWith x t.rsp.terr) ∧
    t.cal = s.cal ∧ t.initd = s.initd ∧ t.host = s.host) ∧
  (∀ w why s, decode w = .illegal why → runWord w s = .next { s with rsp := errorRsp .illegalCommand s.initd 0 0 })

/-- R119: no outcome of a command or of an illegal word depends on an earlier response, which is overwritten whole, so no
error is sticky. -/
def Obligations.EarlierResponseIsNeverRead : Prop :=
  (∀ i s r, exec i { s with rsp := r } = exec i s) ∧ (∀ w s r, runWord w { s with rsp := r } = runWord w s)

/-- R19: which fields a completed command produces. -/
def Obligations.FieldsProducedByCommand : Prop :=
  ∀ i s t, exec i s = .next t →
    t.rsp.initd = t.initd ∧
    (t.rsp.err = .ok → t.rsp.terr = 0 ∧
      (answersPayload i = false → t.rsp.addr = 0 ∧ t.rsp.payload = ⟨0, 0, 0, 0⟩ ∧
        t.rsp.foff = false ∧ t.rsp.fon = false ∧ t.rsp.ovf = false ∧ t.rsp.eq = false) ∧
      (answersDuty i = false → t.rsp.duty = 0) ∧
      (∀ ch c, answersPayload i = true → channel? i = some ch → s.entry ch = some c → t.rsp.addr = c.base)) ∧
    (t.rsp.err ≠ .ok → t.rsp.addr = 0 ∧ t.rsp.payload = ⟨0, 0, 0, 0⟩ ∧
      t.rsp.foff = false ∧ t.rsp.fon = false ∧ t.rsp.ovf = false ∧ t.rsp.eq = false ∧
      t.rsp.duty = (if answersDuty i then 0xFFFFFFFF else 0) ∧ (t.rsp.err ≠ .transportFailure → t.rsp.terr = 0)) ∧
    (∀ r, exec i { s with rsp := r } = .next t)

/-- R18: the flags are copies of the payload's override bits, never both 1, and 0 wherever the command is no ENC or SET
that completed with `ERR = 0`. -/
def Obligations.FlagsOnlyFromEncodingCommands : Prop :=
  ∀ i s t, exec i s = .next t →
    t.rsp.foff = t.rsp.payload.offHi.getLsbD 4 ∧ t.rsp.fon = t.rsp.payload.onHi.getLsbD 4 ∧
    ¬ (t.rsp.foff = true ∧ t.rsp.fon = true) ∧
    (answersPayload i = false ∨ t.rsp.err ≠ .ok →
      t.rsp.foff = false ∧ t.rsp.fon = false ∧ t.rsp.ovf = false ∧ t.rsp.eq = false)

/-- R113: a command reports `TransportFailure` exactly when one of its transactions failed, with that one's code unchanged,
and a failed transaction is the last one of its command. -/
def Obligations.TransportFailureIsPassedOn : Prop :=
  ∀ i s t, exec i s = .next t → ∃ xs, t.bus = s.bus ++ xs ∧
    (t.rsp.err = .transportFailure ↔ ∃ x code, x ∈ xs ∧ failedWith x code) ∧
    (∀ x code, x ∈ xs → failedWith x code → t.rsp.terr = code ∧ xs.getLast? = some x) ∧
    (∀ x code, x ∈ xs.dropLast → ¬ failedWith x code)

/-- R101: after a transport failure the block is as before the command except for `RSP`, each transaction was made once, and
the next command runs as if no command had failed. -/
def Obligations.NoRetryAfterFailure : Prop :=
  ∀ i s t, exec i s = .next t → t.rsp.err = .transportFailure →
    t.cal = s.cal ∧ t.initd = s.initd ∧
    (∃ xs, t.bus = s.bus ++ xs ∧ (xs.map fun x => x.addr).Nodup ∧ xs.length ≤ 2) ∧
    ∀ j, exec j t = exec j { t with rsp := s.rsp }

/-! The bus and the target. -/

/-- R36: the transactions of each command. -/
def Obligations.TransactionsOfEachCommand : Prop :=
  (∀ i s t, exec i s = .next t →
    ((∀ ch duty, i ≠ .set ch duty) → (∀ ch, i ≠ .get ch) → t.bus = s.bus) ∧
    (∀ ch duty, i = .set ch duty → t.rsp.err = .ok ∨ t.rsp.err = .transportFailure →
      ∃ c failure, s.entry ch = some c ∧ t.bus = s.bus ++ [⟨.encoder, Config.devAddr, c.base,
        .write (codecEncode duty c.off.toInt c.scale.toNat).payload.bytes failure⟩]) ∧
    (∀ ch, i = .get ch → t.rsp.err = .ok → ∃ c lo hi, s.entry ch = some c ∧ t.bus = s.bus ++
      [⟨.encoder, Config.devAddr, c.base, .read (.byte lo)⟩, ⟨.encoder, Config.devAddr, c.base + 1, .read (.byte hi)⟩]) ∧
    (∀ ch, i = .get ch → t.rsp.err = .transportFailure → ∃ c, s.entry ch = some c ∧
      (t.bus = s.bus ++ [⟨.encoder, Config.devAddr, c.base, .read (.fail t.rsp.terr)⟩] ∨
        ∃ lo, t.bus = s.bus ++ [⟨.encoder, Config.devAddr, c.base, .read (.byte lo)⟩,
          ⟨.encoder, Config.devAddr, c.base + 1, .read (.fail t.rsp.terr)⟩])) ∧
    (t.rsp.err ≠ .ok → t.rsp.err ≠ .transportFailure → t.bus = s.bus)) ∧
  (∀ w why s, decode w = .illegal why → ∃ u, runWord w s = .next u ∧ u.bus = s.bus)

/-- The spec's own inference (20_memory.md, the addresses the block forms, marked derived there): every register the encoder
ever names lies in 0x06 to 0x45, so it never writes register 0x00. -/
def Obligations.EncoderStaysInChannelRegisters : Prop :=
  ∀ (s : State) (x : Transaction), s.Inv → x ∈ s.bus → x.master = .encoder →
    6 ≤ x.addr.toNat ∧ x.addr.toNat ≤ 0x45 ∧
    (∀ bytes failure, x.op = .write bytes failure → x.addr.toNat + bytes.length ≤ 0x46)

/-- After R125, R126 and R24: the host's configuration write and restart go past the block: `CAL`, `INITD` and `RSP` stay as
they were. A configuration write that succeeded assures the burst (R37; how long, and what register 0x00 then holds, is
assumption 9). After a restart that succeeded every channel is full-off (R127, V7): the override bit of its OFF-high is
set, on whatever target. -/
def Obligations.HostWritesLeaveBlockAlone : Prop :=
  ∀ s t,
    (step (present .configureTarget s) = .next t →
      t.cal = s.cal ∧ t.initd = s.initd ∧ t.rsp = s.rsp ∧ t.host = s.host ∧
      (∃ failure, t.bus = s.bus ++ [⟨.host, Config.devAddr, 0x00, .write [0x21] failure⟩] ∧
        (failure = none → t.burstAssured = true)) ∧
      (∀ a, a ≠ 0 → Memory.read t.cells a = Memory.read s.cells a) ∧ (∀ a : Byte, a ≠ 0 → t.content a = s.content a)) ∧
    (step (present .restartTarget s) = .next t →
      t.cal = s.cal ∧ t.initd = s.initd ∧ t.rsp = s.rsp ∧ t.host = s.host ∧
      (∃ failure, t.bus = s.bus ++ [⟨.host, Config.devAddr, 0x00, .write [0xA1] failure⟩] ∧
        (failure = none → ∀ k, k < 16 →
          ∃ b : Byte, Memory.read t.cells (4 * k + 9) = some b ∧ b.getLsbD 4 = true)))

/-- The reference target is the spec's own choice, for tests only (20_memory.md, reference target; assumption 8): after the
restart every channel's registers hold the full-off payload, every register outside the channels but 0x00 holds what it
held (what 0x00 holds is assumption 9), every read answers the register's content, and a GET of any channel returns
`Ceil(S) + off`. -/
def Obligations.RestartedReferenceTargetReadsFullOff : Prop :=
  ∀ s t, s.Inv → s.initd = true → s.targetKind = .reference → s.writeAnswers = [] → s.readAnswers = [] →
    step (present .restartTarget s) = .next t →
    (∀ a, t.nextRead a = some (.byte (t.content a))) ∧
    (∀ a : Byte, 1 ≤ a.toNat ∧ a.toNat ≤ 5 ∨ 0x46 ≤ a.toNat → t.content a = s.content a) ∧
    ∀ ch c, s.entry ch = some c →
      (∀ i, i < 4 → Memory.read t.cells (c.base.toNat + i) = ([0x00, 0x00, 0x00, 0x10] : List Byte)[i]?) ∧
      ∃ u, exec (.get ch) t = .next u ∧ u.rsp.err = .ok ∧
        u.rsp.duty = BitVec.ofInt 32 (ceilOf c.scale.toNat + c.off.toInt)

/-- On the reference target (20_memory.md, reference target; assumption 8), from the spec's own round-trip
inference: a SET of an interior duty cycle whose ON point needs no reduction, at a scale factor of at least 1, followed by a
GET of the same channel, returns that duty cycle. -/
def Obligations.SetThenGetReturnsDuty : Prop :=
  ∀ s ch duty c, s.Inv → s.initd = true → s.targetKind = .reference → s.writeAnswers = [] → s.readAnswers = [] →
    s.entry ch = some c → 256 ≤ c.scale.toNat → classOf duty c.scale.toNat = .interior →
    0 ≤ onPoint duty c.off.toInt c.scale.toNat → onPoint duty c.off.toInt c.scale.toNat ≤ 4095 →
    ∃ t u, exec (.set ch duty) s = .next t ∧ exec (.get ch) t = .next u ∧ u.rsp.err = .ok ∧ u.rsp.duty.toInt = duty

/-- A host that keeps its duties (70_reset_and_hazards.md, hazards) never has the target given a collision: after such a
SET that completed, neither diagnostic flag is up and the four registers hold points that differ, or an override flag. That
the registers hold the payload after an ok burst is the model's deduction (assumption 5). -/
def Obligations.DutifulSetNeverCollides : Prop :=
  ∀ ch duty s t c, s.SetDutiful ch duty → c.base.toNat ≤ 252 → s.entry ch = some c →
    exec (.set ch duty) s = .next t → t.rsp.err = .ok →
    t.rsp.eq = false ∧ t.rsp.ovf = false ∧
    ∃ onLo onHi offLo offHi : Byte,
      Memory.read t.cells c.base.toNat = some onLo ∧ Memory.read t.cells (c.base.toNat + 1) = some onHi ∧
      Memory.read t.cells (c.base.toNat + 2) = some offLo ∧ Memory.read t.cells (c.base.toNat + 3) = some offHi ∧
      (rawOf onLo onHi % 4096 ≠ rawOf offLo offHi % 4096 ∨ onHi.getLsbD 4 = true ∨ offHi.getLsbD 4 = true)

/-- R131, steps 3 to 5 (that no default SET then collides is the spec's own inference, 41_codec.md facts about the interior
class): after INIT and a configuration write that succeeded, every channel has its default calibration and the host may
issue any SET with confidence. How long the burst stays assured is assumption 9. -/
def Obligations.BootMakesEverySetDutiful : Prop :=
  ∀ s rest, s.host = bootMoves ++ rest → s.nextWrite = some .ok →
    ∃ t u, step s = .next t ∧ step t = .next u ∧ u.initd = true ∧ u.host = rest ∧
      (∀ k, k < 16 → u.entry k = some (CalEntry.default k)) ∧
      ∀ ch duty, u.SetDutiful ch duty

/-! The whole machine. -/

/-- A step executes the command the host presents next, in the state that has it taken from the port; an idle block holds
its state (after R16 and R128; that the host's moves are a list which a step takes one move from is assumption 2). -/
def Obligations.StepRunsPresentedCommand : Prop :=
  (∀ s w i rest, s.host = .command w :: rest → decode w = .command i → step s = exec i { s with host := rest }) ∧
  (∀ s i, i.wellFormed = true → issue i s = exec i s) ∧
  (∀ s, s.host = [] → step s = .next s)

/-- After R141 and U11: no step is ever refused, and a step stops only where a scripted answer of the target never comes (the
model's deduction, assumption 7); so every step answers when every transaction returns. -/
def Obligations.EveryStepAnswers : Prop :=
  ∀ s, isRefused (step s) = false ∧
    ((.never : WriteAnswer) ∉ s.writeAnswers → (.never : ReadAnswer) ∉ s.readAnswers → ∃ t, step s = .next t)

/-- After R97, R98 and R99: a batch is its expansion, one response each; a GETN's buffer holds the i-th GET's `DUTY` in slot
i. An invalid channel stops nothing (R97); that the host goes on after a `TransportFailure` too is the model's choice where
R97 leaves it to the host (assumption 18). -/
def Obligations.BatchIsItsSequence : Prop :=
  (∀ cs ds s, runSetn cs ds s = (if cs.length = ds.length then
    some (issueAll (List.zipWith Instr.set cs ds) s) else none)) ∧
  (∀ is js s t rs, issueAll is s = .next (t, rs) → rs.length = is.length ∧
    ∀ u qs, issueAll js t = .next (u, qs) → issueAll (is ++ js) s = .next (u, rs ++ qs)) ∧
  (∀ cs s t rs, runGetn cs s = .next (t, rs) → (outputBuffer rs).length = cs.length ∧
    ∀ i, (h : i < cs.length) → ∃ t' rs' u, runGetn (cs.take i) s = .next (t', rs') ∧ issue (.get cs[i]) t' = .next u ∧
      (outputBuffer rs)[i]? = some u.rsp.duty)

/-- R143: the effect of a CFG is seen by the very next command. -/
def Obligations.CfgSeenByNextCommand : Prop :=
  ∀ ch off S duty raw s t, (Instr.cfg ch off S).wellFormed = true → exec (.cfg ch off S) s = .next t → t.rsp.err = .ok →
    (∃ u, exec (.enc ch duty) t = .next u ∧ u.rsp.payload = (codecEncode duty off S).payload ∧
      u.rsp.ovf = (codecEncode duty off S).ovf ∧ u.rsp.eq = (codecEncode duty off S).eq) ∧
    (∃ u, exec (.dec ch raw) t = .next u ∧ u.rsp.duty = BitVec.ofInt 32 (codecDecode raw off S))

end
end

