-- ==== Sys2Proof/Tests/Slice0.lean ====
section
/-! SUPPORT. The model's own tests, each on one step or one function, with the value and its place in spec/; and, for every
statement with hypotheses, a theorem that shows concrete values which meet them. -/

namespace Sys2Proof.Tests
open Sys2Proof.Machine Sys2Proof.Claims

/-! Helpers. -/

/-- A block after INIT and before any CFG, on the reference target with nothing in its registers known. -/
def ready : State :=
  { State.reset with cal := tableOf CalEntry.default, initd := true, rsp := Rsp.blank true, targetKind := .reference }

/-- The same block, on a target whose next answers are scripted. -/
def answering (ws : List WriteAnswer) (rs : List ReadAnswer) : State := { ready with writeAnswers := ws, readAnswers := rs }

/-- The same block with one channel's calibration replaced. -/
def calibrated (ch : Nat) (c : CalEntry) : State := { ready with cal := ready.cal.setIfInBounds ch c }

/-- The response word the host sees. -/
def seen : Host.Outcome State Fault Refusal → Option ResponseWord
  | .next t => some t.rsp.word
  | _ => none

/-- The registers named and what was done there, oldest first. -/
def traffic : Host.Outcome State Fault Refusal → List (Byte × BusOp)
  | .next t => t.bus.map fun x => (x.addr, x.op)
  | _ => []

/-- One channel's calibration afterwards. -/
def calAfter (ch : Nat) : Host.Outcome State Fault Refusal → Option CalEntry
  | .next t => t.entry ch
  | _ => none

/-- Whether the outcome is a next state that passes a check. -/
def passes : Host.Outcome State Fault Refusal → (State → Bool) → Bool
  | .next t, p => p t
  | _, _ => false

theorem next_of {o : Host.Outcome State Fault Refusal} {P : State → Prop} [DecidablePred P]
    (h : passes o (fun t => decide (P t)) = true) : ∃ t, o = .next t ∧ P t := by
  cases o with
  | next t => exact ⟨t, rfl, of_decide_eq_true h⟩
  | fault _ => cases h
  | refused _ => cases h

/-! Syntax: each check of WellFormed refuses a term. -/

theorem test_channel_too_wide : (Instr.get 256).wellFormed = false := by decide
theorem test_enc_channel_too_wide : (Instr.enc 256 0).wellFormed = false := by decide
theorem test_duty_too_high : (Instr.enc 0 32768).wellFormed = false := by decide
theorem test_duty_too_low : (Instr.set 0 (-32769)).wellFormed = false := by decide
theorem test_offset_too_high : (Instr.cfg 0 32768 1).wellFormed = false := by decide
theorem test_scale_too_wide : (Instr.cfg 0 0 65536).wellFormed = false := by decide
theorem test_raw_too_wide : (Instr.dec 0 65536).wellFormed = false := by decide
theorem test_widest_operands_fit : (Instr.cfg 255 (-32768) 65535).wellFormed = true := by decide

/-! Decoding: the words of 40_calibration.md, 41_codec.md and 42_channel_ops.md, and illegal ones (X1 to X10). -/

theorem test_decode_init : decode 0x100000000000 = .command .init := by decide
theorem test_decode_cfg : decode 0x2003FFF60280 = .command (.cfg 3 (-10) 640) := by decide
theorem test_decode_enc : decode 0x3002FFFF0000 = .command (.enc 2 (-1)) := by decide
theorem test_decode_dec : decode 0x400200000FA3 = .command (.dec 2 0x0FA3) := by decide
theorem test_decode_set : decode 0x500204000000 = .command (.set 2 1024) := by decide
theorem test_decode_get : decode 0x601000000000 = .command (.get 16) := by decide
theorem test_decode_zero_word : decode 0x000000000000 = .illegal .opcode := by decide
theorem test_decode_opcode_fifteen : decode 0xF00000000000 = .illegal .opcode := by decide
theorem test_decode_reserved_field : decode 0x521000050000 = .illegal .reserved := by decide
theorem test_decode_init_with_channel : decode 0x100100000000 = .illegal .mustBeZero := by decide
theorem test_decode_dec_with_a : decode 0x400200010800 = .illegal .mustBeZero := by decide
theorem test_decode_get_with_b : decode 0x600200000001 = .illegal .mustBeZero := by decide
theorem test_table_word : decodeTableWord 48 0x20007FFFFFFF = some (.cfg 0 32767 65535) := by decide

/-! Assembler lines (R62, R63). -/

theorem test_asm_cfg : assemble "CFG 3, -10, 2.5 ; one channel".toList = some [.cfg 3 (-10) 640] := by decide
theorem test_asm_setn : assemble "SETN [2, 5], [1024, 0]".toList = some [.set 2 1024, .set 5 0] := by decide
theorem test_asm_raw_scale : assemble "CFG 16, 0, #0x0419".toList = some [.cfg 16 0 0x0419] := by decide
theorem test_asm_inexact_scale : assemble "CFG 0, 0, 4.096".toList = none := by decide
theorem test_asm_unequal_lists : assemble "SETN [2, 5], [1024]".toList = none := by decide

/-! The codec (vectors E22, E29, E40, E42, E47 and D1, D10, D15, D21 of 95_test_vectors.md). -/

theorem test_encode_collision : codecEncode 1365 0 0x0300 = ⟨⟨0x00, 0x00, 0x00, 0x00⟩, false, true⟩ := by decide
theorem test_encode_negative_off_point : codecEncode 700 (-10) 0x0280 = ⟨⟨0x10, 0x09, 0xE7, 0x0F⟩, true, false⟩ := by
  decide
theorem test_encode_smallest_scale : codecEncode 1 0 0x0001 = ⟨⟨0xFF, 0x0F, 0x00, 0x00⟩, false, false⟩ := by decide
theorem test_encode_reduced_on_point : codecEncode 1 10 0x0400 = ⟨⟨0x24, 0x00, 0x28, 0x00⟩, true, false⟩ := by decide
theorem test_encode_far_offset : codecEncode 1 (-32768) 0x0400 = ⟨⟨0xFC, 0x0F, 0x00, 0x00⟩, true, false⟩ := by decide
theorem test_decode_rounds_once : codecDecode 0x0FA3 0 0x0400 = 23 := by decide
theorem test_decode_all_sixteen_bits : codecDecode 0xFFFF 0 0x0400 = -15360 := by decide
theorem test_decode_inexact_scale : codecDecode 0x03E9 0 0x0280 = 1237 := by decide
theorem test_decode_minimum : codecDecode 0xFFFF (-32768) 0x0001 = -15761152 := by decide

/-! The six commands (vectors I2, I3, I8, N2, N5, M5, M7, T1, T13, T12, T14). -/

theorem test_init_restores_defaults :
    calAfter 3 (runWord 0x100000000000 (calibrated 3 ⟨0x12, 0xFFF6, 0x0280⟩)) = some ⟨0x12, 0, 0x0400⟩ := by decide
theorem test_init_responds : seen (step (State.reset.withFetchWord 48 0x100000000000)) = some 0x0000000000000000000008 := by
  decide
theorem test_cfg_stores_both :
    calAfter 3 (runWord 0x2003FFF60280 ready) = some ⟨0x12, 0xFFF6, 0x0280⟩ := by decide
theorem test_cfg_channel_before_scale : seen (runWord 0x20C800050000 ready) = some 0x0000000000000000000009 := by decide
theorem test_enc_full_on : seen (runWord 0x300204000000 ready) = some 0x00000000000010000E0028 := by decide
theorem test_enc_overflow :
    seen (runWord 0x300302BC0000 (calibrated 3 ⟨0x12, 0xFFF6, 0x0280⟩)) = some 0x000000000FE70910120048 := by decide
theorem test_dec_negative : seen (runWord 0x40020000FFFF ready) = some 0xFFFFC40000000000000008 := by decide
theorem test_dec_bad_channel : seen (runWord 0x401000000800 ready) = some 0xFFFFFFFF00000000000009 := by decide
theorem test_set_writes_once : traffic (runWord 0x500204000000 ready) = [(0x0E, .write [0x00, 0x10, 0x00, 0x00] none)] := by
  decide
theorem test_set_fails :
    seen (runWord 0x500202000000 (answering [.reply (.fail 0x5A 0)] [])) = some 0x0000000000000000005A0B := by decide
theorem test_get_reads_low_then_high :
    seen (runWord 0x600200000000 (answering [] [.reply (.byte 0x50), .reply (.byte 0x0B)])) =
      some 0x0000012C00000000000008 := by decide
theorem test_get_stops_after_failure :
    traffic (runWord 0x600200000000 (answering [] [.reply (.fail 0x11)])) = [(0x0E, .read (.fail 0x11))] := by decide

/-! Illegal words (X1, X7), a command before INIT (X13), the target's registers (R38, R44), the host's moves (S11). -/

theorem test_illegal_before_init : seen (runWord 0x000000000000 State.reset) = some 0x0000000000000000000005 := by decide
theorem test_illegal_dec_has_no_sentinel : seen (runWord 0x400200010800 ready) = some 0x000000000000000000000D := by decide
theorem test_get_before_init : seen (runWord 0x600000000000 State.reset) = some 0xFFFFFFFF00000000000004 := by decide
theorem test_failed_burst_mixes :
    passes (runWord 0x500202000000
      { answering [.reply (.fail 0x5A 2)] [] with cells := [(0x0E, 0xAA), (0x0F, 0xBB)] })
      (fun t => t.cells == [(0x0E, 0xAA), (0x0F, 0x08)]) = true := by decide
theorem test_restart_is_full_off :
    passes (step (present .restartTarget ready)) (fun t => Memory.read t.cells 0x45 == some 0x10) = true := by decide
/-- V7 and R127: any value consistent with full-off, on a target about which nothing else is assumed. -/
theorem test_restart_forces_free_target_off :
    ∃ t, step (present .restartTarget { answering [.reply .ok] [] with targetKind := .free }) = .next t ∧
      ∃ b : Byte, Memory.read t.cells 0x45 = some b ∧ b.getLsbD 4 = true :=
  ⟨_, rfl, allForcedOff_read _ (by decide) [] (k := 15) (by decide)⟩
/-- R44: `readRegister(a)` returns `T[a]`, whatever that is, each time it is asked. -/
theorem test_reference_reads_agree :
    ∃ t, memRead 0xFE ready = some (.byte (ready.content 0xFE), t) ∧ t.nextRead 0xFE = some (.byte (ready.content 0xFE)) :=
  ⟨_, rfl, rfl⟩
theorem test_configuration_write :
    traffic (step (present .configureTarget ready)) = [(0x00, .write [0x21] none)] := by decide
theorem test_reset_memory : Memory.wf State.reset.cells = true := by decide
theorem test_memory_order : Memory.write (Memory.write [] 9 1) 6 2 = [(6, 2), (9, 1)] := by decide

/-! Legal states, for the witnesses. -/

theorem blank_rsp_legal (b : Bool) : (Rsp.blank b).Legal := by
  constructor <;> simp [Rsp.blank, Payload.zero, foffFlag, fonFlag, Config.flagBit]

theorem inv_of_default {s : State} (hc : s.cal = tableOf CalEntry.default) (hr : s.rsp = Rsp.blank s.initd)
    (hm : Memory.wf s.cells = true) (hb : ∀ x ∈ s.bus, x.Legal) : s.Inv where
  cal_legal := by
    intro _ ch c h
    rw [entry_of_table hc (lt_of_entry h)] at h
    cases h
    exact ⟨rfl, (by decide : (0x0400 : Half) ≠ 0)⟩
  initd_copied := by rw [hr]; rfl
  rsp_legal := hr ▸ blank_rsp_legal _
  cells_wf := hm
  bus_legal := hb

theorem ready_inv : ready.Inv := inv_of_default rfl rfl rfl (fun _ h => by cases h)

/-- A block whose bus has seen the burst of the last channel. -/
def worked : State := { ready with bus := [⟨.encoder, Config.devAddr, 0x42, .write [0, 0, 0, 0x10] none⟩] }

theorem worked_inv : worked.Inv := by
  refine inv_of_default rfl rfl rfl ?_
  intro x hx
  rw [List.mem_singleton.mp hx]
  exact ⟨rfl, ⟨15, by decide, by decide⟩, rfl⟩

/-! One witness for each statement with hypotheses, its clauses at the edges of their ranges. -/

theorem witness_DecodeOfEncodeGivesCommandBack :
    Instr.init.wellFormed = true ∧ (Instr.cfg 255 (-32768) 65535).wellFormed = true ∧
    (Instr.enc 255 32767).wellFormed = true ∧ (Instr.dec 255 65535).wellFormed = true ∧
    (Instr.set 255 (-32768)).wellFormed = true ∧ (Instr.get 255).wellFormed = true := by decide

theorem witness_EncodeOfDecodeGivesWordBack : decode 0x20FF8000FFFF = .command (.cfg 255 (-32768) 65535) := by decide

theorem witness_CommandWordsFollowTable :
    (Instr.cfg 255 32767 0).wellFormed = true ∧ (Instr.enc 255 (-32768)).wellFormed = true ∧
    (Instr.dec 255 65535).wellFormed = true ∧ (Instr.set 255 32767).wellFormed = true ∧ (Instr.get 255).wellFormed = true ∧
    ∀ r ∈ tableRows, r.matchesWord r.pattern = true := by decide

theorem witness_IllegalWordsOnlyReport :
    (∀ r ∈ tableRows, r.matchesWord 0x000000000000 = false) ∧ (∀ r ∈ tableRows, r.matchesWord 0x700000000000 = false) ∧
    (∀ r ∈ tableRows, r.matchesWord 0xF00000000000 = false) ∧ (∀ r ∈ tableRows, r.matchesWord 0x110000000000 = false) ∧
    (∀ r ∈ tableRows, r.matchesWord 0x100100000000 = false) ∧ (∀ r ∈ tableRows, r.matchesWord 0x300200010001 = false) ∧
    (∀ r ∈ tableRows, r.matchesWord 0x400200010800 = false) ∧ (∀ r ∈ tableRows, r.matchesWord 0x600200000001 = false) :=
  ⟨by decide, by decide, by decide, by decide, by decide, by decide, by decide, by decide⟩

theorem witness_ErrorNumbers : (5 : ResponseWord).extractLsb' 0 3 ≠ 6 ∧ (5 : ResponseWord).extractLsb' 0 3 ≠ 7 := by decide

theorem witness_ResetClearsBlockAndNothingElse : 15 < 16 ∧ State.reset.host = [] := by decide

theorem witness_EveryStepKeepsLegality : (present (.command 0x500F03FF0000) ready).Inv ∧
    ∃ t, step (present (.command 0x500F03FF0000) ready) = .next t ∧ t.rsp.err = .ok :=
  ⟨inv_of_default rfl rfl rfl (fun _ h => by cases h), next_of (by decide)⟩

theorem witness_InitialisedBitRules :
    (∃ t, exec .init State.reset = .next t ∧ t.initd = true) ∧
    (∃ t, exec (.get 15) ready = .next t ∧ ready.initd = true) ∧
    (∃ t, runWord 0x000000000000 ready = .next t ∧ t.rsp.initd = true) ∧
    Instr.enc 15 0 ≠ .init ∧ State.reset.initd = false :=
  ⟨next_of (by decide), next_of (by decide), next_of (by decide), by decide, by decide⟩

theorem witness_InitRestoresDefaults :
    opcField 0x100100000000 = 1 ∧ (0x100100000000 : CommandWord) ≠ 0x100000000000 ∧ 15 < 16 := by decide

theorem witness_CfgWritesOffsetAndScale :
    (Instr.cfg 15 (-32768) 65535).wellFormed = true ∧ (Instr.cfg 16 0 1).wellFormed = true ∧
    (Instr.cfg 15 0 0).wellFormed = true ∧ State.reset.initd = false ∧ ready.initd = true ∧
    opcField 0x20FF8000FFFF = 2 ∧ rsvField 0x20FF8000FFFF = 0 := by decide

theorem witness_FailedCfgChangesNoCalibration :
    (∃ t, exec (.cfg 16 0 1) ready = .next t ∧ t.rsp.err ≠ .ok) ∧
    (∃ t, exec (.cfg 15 7 0) ready = .next t ∧ t.rsp.err ≠ .ok) ∧
    (∃ t, exec (.cfg 0 0 1) State.reset = .next t ∧ t.rsp.err ≠ .ok) :=
  ⟨next_of (by decide), next_of (by decide), next_of (by decide)⟩

theorem witness_CfgChangesTwoFieldsOnly :
    (∃ t, exec (.cfg 15 (-32768) 65535) ready = .next t ∧ t.rsp.err = .ok) ∧ 14 ≠ 15 :=
  ⟨next_of (by decide), by decide⟩

theorem witness_DefaultCalibrationTable :
    ∃ t, exec .init State.reset = .next t ∧ t.entry 15 = some ⟨0x42, 0, 0x0400⟩ := next_of (by decide)

theorem witness_CallerRangesWithExactScale :
    1 * 1048576 = 1048576 ∧ 32768 * 32 = 1048576 ∧ 32768 ≤ 65535 ∧ (0 : Int) < 1 ∧ 5 ≤ 20 ∧ ¬ 65535 ∣ 1048576 := by decide

theorem witness_CeilIsFlooredSpan : 1 ≤ 65535 ∧ 65535 ≤ 65535 := by decide

theorem witness_DutyClassesByExactComparison :
    1 ≤ 1 ∧ (0 : Int) ≤ 0 ∧ (0 : Int) < 1048576 ∧ (4096 : ℚ) ≤ ((1048576 : Int) : ℚ) * scaleFactor 1 := by
  refine ⟨by decide, by decide, by decide, ?_⟩
  norm_num [scaleFactor]

theorem witness_OverridePayloadsAreConstant : (0 : Int) ≤ 0 ∧ (0 : Int) < 1024 ∧ (1048576 : Int) ≤ 1024 * (1024 : Nat) := by
  decide

theorem witness_InteriorPayloadHoldsFlooredPoints :
    1 ≤ 1 ∧ classOf 1048575 1 = .interior ∧ classOf 16 65535 = .interior := by decide

theorem witness_PackIsLowTwelveBits :
    (0 : Int) ≤ 4095 ∧ (4095 : Int) ≤ 4095 ∧ classOf 1 1024 = .interior ∧
    (pack12 (onPoint 1 10 1024) : Int) ≠ onPoint 1 10 1024 := by decide

theorem witness_InteriorDutyRange : 1 ≤ 65535 ∧ classOf (ceilOf 65535) 65535 = .interior := by decide

theorem witness_FlagsWithZeroOffset :
    classOf 1365 768 = .interior ∧ classOf 4095 256 = .interior ∧ 256 ≤ 256 ∧ classOf 8191 128 = .interior ∧ 128 < 256 := by
  decide

theorem witness_OnPointFallsAsDutyRises : 1 ≤ 1 ∧ (-32768 : Int) ≤ 32767 := by decide

theorem witness_CollisionOnlyAtTheEdges :
    1 ≤ 768 ∧ classOf 1365 768 = .interior ∧ (codecEncode 1365 0 768).eq = true := by decide

theorem witness_DecodeIsFlooredInverse : 1 ≤ 1 := by decide

theorem witness_DecodeFitsResultField : (⟨0x42, 0x8000, 1⟩ : CalEntry).scale ≠ 0 ∧ 65535 < 65536 := by decide

theorem witness_InteriorDutyRoundTrips :
    256 ≤ 256 ∧ classOf 1 256 = .interior ∧ 0 ≤ onPoint 1 0 256 ∧ onPoint 1 0 256 ≤ 4095 ∧ classOf 4095 256 = .interior := by
  decide

theorem witness_OverridePayloadsDecodeByFormula :
    1 ≤ 1 ∧ classOf 0 1 = .fullOff ∧ classOf 1024 1024 = .fullOn ∧ powerOfTwo 1024 :=
  ⟨by decide, by decide, by decide, 10, by decide, by decide⟩

theorem witness_CollisionFreeScales : collisionFreeScale 0x0100 ∧ collisionFreeScale 0x8000 ∧ 0x8000 ≤ 65535 :=
  ⟨⟨by decide, by decide⟩, ⟨by decide, by decide⟩, by decide⟩

theorem witness_EncResponds :
    State.reset.initd = false ∧ ready.initd = true ∧ 16 ≤ 16 ∧ ready.entry 15 = some ⟨0x42, 0, 0x0400⟩ ∧
    opcField 0x30FF80000000 = 3 ∧ rsvField 0x30FF80000000 = 0 ∧ bField 0x30FF80000000 = 0 ∧
    opcField 0x300200010001 = 3 ∧ bField 0x300200010001 ≠ 0 := by decide

theorem witness_DecResponds :
    State.reset.initd = false ∧ ready.initd = true ∧ 16 ≤ 16 ∧ ready.entry 15 = some ⟨0x42, 0, 0x0400⟩ ∧
    opcField 0x40FF0000FFFF = 4 ∧ rsvField 0x40FF0000FFFF = 0 ∧ aField 0x40FF0000FFFF = 0 ∧
    opcField 0x400200010800 = 4 ∧ aField 0x400200010800 ≠ 0 := by decide

theorem witness_CodecCommandsArePure :
    ready.initd = (answering [.never] []).initd ∧ ready.entry 15 = (answering [.never] []).entry 15 ∧
    (∃ t, exec (.enc 15 1) ready = .next t ∧ t.rsp.err = .ok) ∧ (∃ t, exec (.dec 15 65535) ready = .next t ∧ t.rsp.err = .ok) :=
  ⟨by decide, by decide, next_of (by decide), next_of (by decide)⟩

theorem witness_SetWritesPayload :
    State.reset.initd = false ∧ ready.initd = true ∧ 16 ≤ 16 ∧ ready.entry 15 = some ⟨0x42, 0, 0x0400⟩ ∧
    ready.nextWrite = some .ok ∧ (answering [.reply (.fail 0xFF 5)] []).nextWrite = some (.fail 0xFF 5) ∧
    (answering [.never] []).nextWrite = none ∧
    opcField 0x50FF80000000 = 5 ∧ rsvField 0x50FF80000000 = 0 ∧ bField 0x50FF80000000 = 0 ∧
    opcField 0x500300050001 = 5 ∧ bField 0x500300050001 ≠ 0 := by decide

theorem witness_GetReadsOnPair :
    State.reset.initd = false ∧ ready.initd = true ∧ 16 ≤ 16 ∧ ready.entry 15 = some ⟨0x42, 0, 0x0400⟩ ∧
    (answering [] [.never]).nextRead 0x42 = none ∧
    (answering [] [.reply (.fail 0)]).nextRead 0x42 = some (.fail 0) ∧
    (answering [] [.reply (.byte 0xFF), .never]).nextRead 0x42 = some (.byte 0xFF) ∧
    (afterRead (answering [] [.reply (.byte 0xFF), .never]) 0x42 (.byte 0xFF)).nextRead 0x43 = none ∧
    (afterRead (answering [] [.reply (.byte 1), .reply (.fail 2)]) 0x42 (.byte 1)).nextRead 0x43 = some (.fail 2) ∧
    (afterRead (answering [] [.reply (.byte 1), .reply (.byte 2)]) 0x42 (.byte 1)).nextRead 0x43 = some (.byte 2) ∧
    opcField 0x60FF00000000 = 6 ∧ rsvField 0x60FF00000000 = 0 ∧ aField 0x60FF00000000 = 0 ∧ bField 0x60FF00000000 = 0 ∧
    opcField 0x600200000001 = 6 ∧ bField 0x600200000001 ≠ 0 ∧
    opcField 0x600200010000 = 6 ∧ aField 0x600200010000 ≠ 0 := by decide

theorem witness_SetStoresOnlyItsFourRegisters :
    ready.burstAssured = true ∧ ready.entry 15 = some ⟨0x42, 0, 0x0400⟩ ∧ ready.entry 0 = some ⟨0x06, 0, 0x0400⟩ ∧
    (∃ t, exec (.set 16 1) ready = .next t ∧ t.rsp.err = .invalidChannel) ∧
    (∃ t, exec (.set 15 1) ready = .next t ∧ t.rsp.err = .ok) ∧
    (∃ t, exec (.set 0 1) (answering [.reply (.fail 1 9)] []) = .next t ∧ t.rsp.err = .transportFailure) ∧
    (0x41 : Byte).toNat < (0x42 : Byte).toNat ∧ (0x42 : Byte).toNat + 4 ≤ (0x46 : Byte).toNat :=
  ⟨by decide, by decide, by decide, next_of (by decide), next_of (by decide), next_of (by decide), by decide, by decide⟩

theorem witness_NonStoringCommandsFrame :
    (∀ ch duty, Instr.get 15 ≠ .set ch duty) ∧ (∃ t, exec (.get 15) ready = .next t ∧ t.rsp.err = .ok) ∧
    (∃ t, exec .init State.reset = .next t ∧ t.rsp.err = .ok) ∧ (∃ t, exec (.cfg 15 0 1) ready = .next t ∧ t.rsp.err = .ok) ∧
    (∃ t, exec (.enc 16 0) ready = .next t ∧ t.rsp.err = .invalidChannel) :=
  ⟨(fun _ _ h => by cases h), next_of (by decide), next_of (by decide), next_of (by decide), next_of (by decide)⟩

theorem witness_SetFrame :
    let s := { answering [.reply .ok] [] with targetKind := .free }
    s.burstAssured = false ∧ (∃ t, exec (.set 15 1) s = .next t ∧ t.rsp.err = .ok) ∧
    (∃ t, exec (.set 15 1) ready = .next t ∧ t.rsp.err = .ok) :=
  ⟨by decide, next_of (by decide), next_of (by decide)⟩

theorem witness_SetRespondsAsEnc : ∃ t, exec (.set 15 (-32768)) ready = .next t ∧ t.rsp.err = .ok := next_of (by decide)

theorem witness_ChecksComeBeforeBus :
    State.reset.initd = false ∧ ready.initd = true ∧ 16 ≤ 16 ∧ decode 0x700000000000 = .illegal .opcode := by decide

theorem witness_FirstCauseIsReported :
    decode 0x521000050000 = .illegal .reserved ∧ decode 0x60FF00000000 = .command (.get 255) ∧
    Instr.get 16 ≠ .init ∧ State.reset.initd = false ∧ ready.initd = true ∧ channel? (.get 16) = some 16 ∧ 15 < 16 ∧
    (∃ t, exec (.get 15) (answering [] [.reply (.fail 7)]) = .next t ∧ t.rsp.err = .transportFailure) ∧
    (∃ t, exec (.set 15 0) (answering [.reply (.fail 7 0)] []) = .next t ∧ t.rsp.err = .transportFailure) :=
  ⟨by decide, by decide, by decide, by decide, by decide, by decide, by decide, next_of (by decide), next_of (by decide)⟩

theorem witness_ErrorWritesOnlyResponse :
    (∃ t, exec (.get 16) ready = .next t ∧ t.rsp.err ≠ .ok ∧ t.rsp.err ≠ .transportFailure) ∧
    (∃ t, exec (.get 15) (answering [] [.reply (.fail 7)]) = .next t ∧ t.rsp.err = .transportFailure) ∧
    decode 0x000000000000 = .illegal .opcode :=
  ⟨next_of (by decide), next_of (by decide), by decide⟩

theorem witness_FieldsProducedByCommand :
    (∃ t, exec (.enc 15 1) ready = .next t ∧ t.rsp.err = .ok) ∧ answersPayload (.enc 15 1) = true ∧
    channel? (.enc 15 1) = some 15 ∧ ready.entry 15 = some ⟨0x42, 0, 0x0400⟩ ∧
    (∃ t, exec (.dec 15 1) ready = .next t ∧ t.rsp.err = .ok) ∧ answersPayload (.dec 15 1) = false ∧
    (∃ t, exec .init ready = .next t ∧ t.rsp.err = .ok) ∧ answersDuty .init = false ∧
    (∃ t, exec (.dec 16 1) ready = .next t ∧ t.rsp.err ≠ .ok) :=
  ⟨next_of (by decide), by decide, by decide, by decide, next_of (by decide), by decide, next_of (by decide), by decide,
    next_of (by decide)⟩

theorem witness_FlagsOnlyFromEncodingCommands :
    (∃ t, exec (.set 15 0) ready = .next t ∧ t.rsp.foff = true) ∧
    (∃ t, exec (.get 15) ready = .next t ∧ answersPayload (.get 15) = false) ∧
    (∃ t, exec (.enc 16 0) ready = .next t ∧ t.rsp.err ≠ .ok) :=
  ⟨next_of (by decide), next_of (by decide), next_of (by decide)⟩

theorem witness_TransportFailureIsPassedOn :
    ∃ t, exec (.get 15) (answering [] [.reply (.byte 1), .reply (.fail 0)]) = .next t ∧ t.rsp.err = .transportFailure :=
  next_of (by decide)

theorem witness_NoRetryAfterFailure :
    ∃ t, exec (.set 15 1) (answering [.reply (.fail 0 15)] []) = .next t ∧ t.rsp.err = .transportFailure := next_of (by decide)

theorem witness_TransactionsOfEachCommand :
    (∃ t, exec (.set 15 1) ready = .next t ∧ t.rsp.err = .ok) ∧ (∃ t, exec (.get 15) ready = .next t ∧ t.rsp.err = .ok) ∧
    (∃ t, exec (.get 0) (answering [] [.reply (.fail 3)]) = .next t ∧ t.rsp.err = .transportFailure) ∧
    (∃ t, exec .init ready = .next t ∧ t.rsp.err = .ok) ∧
    (∃ t, exec (.set 16 1) ready = .next t ∧ t.rsp.err = .invalidChannel) ∧ decode 0x600200000001 = .illegal .mustBeZero :=
  ⟨next_of (by decide), next_of (by decide), next_of (by decide), next_of (by decide), next_of (by decide), by decide⟩

theorem witness_EncoderStaysInChannelRegisters :
    worked.Inv ∧ ∃ x ∈ worked.bus, x.master = .encoder ∧ x.op = .write [0, 0, 0, 0x10] none :=
  ⟨worked_inv, _, List.mem_singleton.mpr rfl, rfl, rfl⟩

theorem witness_HostWritesLeaveBlockAlone :
    (∃ t, step (present .configureTarget ready) = .next t ∧ t.initd = true) ∧
    (∃ t, step (present .restartTarget (answering [.reply (.fail 1 0)] [])) = .next t ∧ t.initd = true) ∧
    (∃ t, step (present .restartTarget ready) = .next t ∧
      t.bus = ready.bus ++ [⟨.host, Config.devAddr, 0x00, .write [0xA1] none⟩]) ∧
    (1 : Byte) ≠ 0 ∧ 15 < 16 :=
  ⟨next_of (by decide), next_of (by decide), ⟨_, rfl, rfl⟩, by decide, by decide⟩

theorem witness_RestartedReferenceTargetReadsFullOff :
    ready.Inv ∧ ready.initd = true ∧ ready.targetKind = .reference ∧ ready.writeAnswers = [] ∧ ready.readAnswers = [] ∧
    (∃ t, step (present .restartTarget ready) = .next t ∧ t.initd = true) ∧ ready.entry 15 = some ⟨0x42, 0, 0x0400⟩ ∧
    ∀ a ∈ [(1 : Byte), 5, 0x46, 0xFF], 1 ≤ a.toNat ∧ a.toNat ≤ 5 ∨ 0x46 ≤ a.toNat :=
  ⟨ready_inv, by decide, by decide, by decide, by decide, next_of (by decide), by decide, by decide⟩

theorem witness_SetThenGetReturnsDuty :
    ready.Inv ∧ ready.initd = true ∧ ready.targetKind = .reference ∧ ready.writeAnswers = [] ∧ ready.readAnswers = [] ∧
    ready.entry 15 = some ⟨0x42, 0, 0x0400⟩ ∧ 256 ≤ 0x0400 ∧ classOf 1 0x0400 = .interior ∧
    0 ≤ onPoint 1 0 0x0400 ∧ onPoint 1 0 0x0400 ≤ 4095 :=
  ⟨ready_inv, by decide, by decide, by decide, by decide, by decide, by decide, by decide, by decide, by decide⟩

theorem witness_DutifulSetNeverCollides :
    ready.SetDutiful 15 1023 ∧ ready.entry 15 = some ⟨0x42, 0, 0x0400⟩ ∧ (0x42 : Byte).toNat ≤ 252 ∧
    ∃ t, exec (.set 15 1023) ready = .next t ∧ t.rsp.err = .ok := by
  have he : ready.entry 15 = some ⟨0x42, 0, 0x0400⟩ := by decide
  refine ⟨⟨by decide, ?_⟩, he, by decide, next_of (by decide)⟩
  intro c hc
  rw [he] at hc
  cases hc
  decide

theorem witness_BootMakesEverySetDutiful :
    ({ ready with host := bootMoves } : State).host = bootMoves ++ [] ∧
    ({ ready with host := bootMoves } : State).nextWrite = some .ok ∧ 15 < 16 := by decide

theorem witness_StepRunsPresentedCommand :
    (present (.command 0x60FF00000000) ready).host = .command 0x60FF00000000 :: [] ∧
    decode 0x60FF00000000 = .command (.get 255) ∧ (Instr.cfg 255 (-32768) 65535).wellFormed = true ∧
    State.reset.host = [] := by decide

theorem witness_EveryStepAnswers :
    (.never : WriteAnswer) ∉ ready.writeAnswers ∧ (.never : ReadAnswer) ∉ ready.readAnswers := by decide

theorem witness_BatchIsItsSequence :
    (∃ t rs u qs, issueAll [.set 15 0] ready = .next (t, rs) ∧ issueAll [.get 15] t = .next (u, qs)) ∧
    (∃ t rs, runGetn [15, 16] ready = .next (t, rs)) ∧ 1 < [15, 16].length :=
  ⟨⟨_, _, _, _, rfl, rfl⟩, ⟨_, _, rfl⟩, by decide⟩

theorem witness_CfgSeenByNextCommand :
    (Instr.cfg 15 (-32768) 65535).wellFormed = true ∧
    ∃ t, exec (.cfg 15 (-32768) 65535) ready = .next t ∧ t.rsp.err = .ok := ⟨by decide, next_of (by decide)⟩

end Sys2Proof.Tests
end

section
/-! PROOFS. The family 10_state.md: what a completed command writes into the response record, said once for all six commands,
and from it the obligations O11, O46 and O47. -/

namespace Sys2Proof.Proofs
open Sys2Proof.Machine Sys2Proof.Claims

/-! The override flags of an encoding. -/

/-- The high byte of a packed point has no override bit (R33, R79). -/
theorem highByte_pack12_flag (v : Int) : (highByte (pack12 v)).getLsbD Config.flagBit = false :=
  byte_bit_four_of_lt (Nat.div_lt_of_lt_mul (pack12_lt v))

/-- `FOFF` of an encoding says that its class is full-off (R59, R77). -/
theorem foffFlag_codecEncode (duty off : Int) (S : Nat) :
    foffFlag (codecEncode duty off S).payload = decide (classOf duty S = .fullOff) := by
  cases hc : classOf duty S with
  | fullOff => rw [codecEncode_fullOff off hc]; rfl
  | fullOn => rw [codecEncode_fullOn off hc]; rfl
  | interior => rw [codecEncode_interior off hc]; exact highByte_pack12_flag _

/-- `FON` of an encoding says that its class is full-on (R60, R77). -/
theorem fonFlag_codecEncode (duty off : Int) (S : Nat) :
    fonFlag (codecEncode duty off S).payload = decide (classOf duty S = .fullOn) := by
  cases hc : classOf duty S with
  | fullOff => rw [codecEncode_fullOff off hc]; rfl
  | fullOn => rw [codecEncode_fullOn off hc]; rfl
  | interior => rw [codecEncode_interior off hc]; exact highByte_pack12_flag _

/-- No encoding has both overrides, since its duty cycle has one class (R61). -/
theorem not_foffFlag_and_fonFlag_encodeDuty (c : CalEntry) (duty : Int) :
    ¬ (foffFlag (c.encodeDuty duty).payload = true ∧ fonFlag (c.encodeDuty duty).payload = true) := by
  rw [CalEntry.encodeDuty, foffFlag_codecEncode, fonFlag_codecEncode, decide_eq_true_eq, decide_eq_true_eq]
  rintro ⟨hoff, hon⟩
  rw [hoff] at hon
  cases hon

/-! The response word. -/

/-- Bit 3 of the response word is the record's initialised bit (R56). -/
theorem word_getLsbD_three (r : Rsp) : r.word.getLsbD 3 = r.initd := by
  simp only [Rsp.word, Rsp.statusByte, BitVec.getLsbD_append]
  simp

/-! What a transaction of the encoder leaves unchanged in the block, and that it reads no earlier response. -/

theorem memWrite_initd {a : Byte} {p : Payload} {s t : State} {r : WriteReply} (h : memWrite a p s = some (r, t)) :
    t.initd = s.initd := by
  obtain ⟨-, rfl⟩ := memWrite_some h
  rfl

theorem memRead_initd {a : Byte} {s t : State} {r : ReadReply} (h : memRead a s = some (r, t)) : t.initd = s.initd := by
  obtain ⟨-, rfl⟩ := memRead_some h
  rfl

@[simp] theorem nextWrite_respond (s : State) (r : Rsp) : (s.respond r).nextWrite = s.nextWrite := rfl

@[simp] theorem nextRead_respond (s : State) (r : Rsp) (a : Byte) : (s.respond r).nextRead a = s.nextRead a := rfl

theorem memWrite_respond (a : Byte) (p : Payload) (s : State) (r : Rsp) :
    memWrite a p (s.respond r) = (memWrite a p s).map fun x => (x.1, x.2.respond r) := by
  unfold memWrite
  rw [nextWrite_respond]
  cases s.nextWrite <;> rfl

theorem memRead_respond (a : Byte) (s : State) (r : Rsp) :
    memRead a (s.respond r) = (memRead a s).map fun x => (x.1, x.2.respond r) := by
  unfold memRead
  rw [nextRead_respond]
  cases s.nextRead a <;> rfl

/-! No command reads the earlier response (R19, R119). -/

@[simp] theorem checkChannel_respond (ch : Nat) (s : State) (r : Rsp) :
    checkChannel ch (s.respond r) = checkChannel ch s := rfl

theorem execSet_respond (ch : Nat) (duty : Int) (s : State) (r : Rsp) :
    execSet ch duty (s.respond r) = execSet ch duty s := by
  unfold execSet
  rw [checkChannel_respond]
  cases checkChannel ch s with
  | error e => rfl
  | ok c =>
    simp only [memWrite_respond]
    rcases memWrite c.base (c.encodeDuty duty).payload s with _ | ⟨_ | _, _⟩ <;> rfl

theorem getOnHigh_respond (c : CalEntry) (onLo : Byte) (s : State) (r : Rsp) :
    getOnHigh c onLo (s.respond r) = getOnHigh c onLo s := by
  unfold getOnHigh
  rw [memRead_respond]
  rcases memRead (c.base + 1) s with _ | ⟨_ | _, _⟩ <;> rfl

theorem execGet_respond (ch : Nat) (s : State) (r : Rsp) : execGet ch (s.respond r) = execGet ch s := by
  unfold execGet
  rw [checkChannel_respond]
  cases checkChannel ch s with
  | error e => rfl
  | ok c =>
    simp only [memRead_respond]
    rcases memRead c.base s with _ | ⟨onLo | _, u⟩
    · rfl
    · exact getOnHigh_respond c onLo u r
    · rfl

theorem exec_respond (i : Instr) (s : State) (r : Rsp) : exec i (s.respond r) = exec i s := by
  cases i with
  | init => rfl
  | cfg ch off scale => rfl
  | enc ch duty => rfl
  | dec ch raw => rfl
  | set ch duty => exact execSet_respond ch duty s r
  | get ch => exact execGet_respond ch s r

/-! The response of a completed command. -/

/-- `RSP.DUTY` of a command that ends in an error: the sentinel for DEC and GET, 0 for the others (R19). -/
def failDuty (i : Instr) : DutyWord := if answersDuty i then Config.dutySentinel else 0

theorem answersPayload_of_answersDuty : ∀ {i : Instr}, answersDuty i = true → answersPayload i = false
  | .dec _ _, _ => rfl
  | .get _, _ => rfl

/-- The four ways a command run from `s` writes its response and completes (R19, R118). In each, `u` is the state the
response is written over: the command's effects on the calibration and the target are already in it. -/
inductive Responds (i : Instr) (s : State) : State → Prop
  /-- An error was raised; only a transport failure passes on a code. -/
  | raised {e : Err} {terr : Byte} {u : State} (hok : e ≠ .ok) (hterr : e ≠ .transportFailure → terr = 0)
      (hinitd : u.initd = s.initd) : Responds i s (raise e terr (failDuty i) u)
  /-- INIT or CFG completed. -/
  | acknowledged {u : State} (hpay : answersPayload i = false) (hinitd : i ≠ .init → u.initd = s.initd) :
      Responds i s (acknowledge u)
  /-- ENC or SET completed, for a channel that passed the check. -/
  | encoded {ch : Nat} {c : CalEntry} {duty : Int} {u : State} (hpay : answersPayload i = true)
      (hch : channel? i = some ch) (hcheck : checkChannel ch s = .ok c) (hinitd : u.initd = s.initd) :
      Responds i s (encodedResponse c duty u)
  /-- DEC or GET completed. -/
  | decoded {c : CalEntry} {raw : Nat} {u : State} (hduty : answersDuty i = true) (hinitd : u.initd = s.initd) :
      Responds i s (decodedResponse c raw u)

/-- A failed channel check is an error that passes on no code. -/
theorem Responds.of_check_error {i : Instr} {s : State} {ch : Nat} {e : Err} (h : checkChannel ch s = .error e) :
    Responds i s (raise e 0 (failDuty i) s) := by
  rcases checkChannel_error_cases h with ⟨-, rfl⟩ | ⟨-, -, rfl⟩ <;> exact .raised (by decide) (fun _ => rfl) rfl

/-- A failed transaction is an error that passes on its code. -/
theorem Responds.of_transport {i : Instr} {s u : State} (code : Byte) (h : u.initd = s.initd) :
    Responds i s (raise .transportFailure code (failDuty i) u) :=
  .raised (by decide) (fun hn => absurd rfl hn) h

/-- Every command that completes writes its response in one of the four ways. -/
theorem responds_of_exec {i : Instr} {s t : State} (h : exec i s = .next t) : Responds i s t := by
  cases i with
  | init => cases h; exact .acknowledged rfl (fun hn => absurd rfl hn)
  | cfg ch off scale =>
    rcases execCfg_cases h with ⟨e, hc, rfl⟩ | ⟨c, -, -, rfl⟩ | ⟨c, -, -, rfl⟩
    · exact .of_check_error hc
    · exact .raised (by decide) (fun _ => rfl) rfl
    · exact .acknowledged rfl (fun _ => rfl)
  | enc ch duty =>
    rcases execEnc_cases h with ⟨e, hc, rfl⟩ | ⟨c, hc, rfl⟩
    · exact .of_check_error hc
    · exact .encoded rfl rfl hc rfl
  | dec ch raw =>
    rcases execDec_cases h with ⟨e, hc, rfl⟩ | ⟨c, -, rfl⟩
    · exact .of_check_error hc
    · exact .decoded rfl rfl
  | set ch duty =>
    rcases execSet_cases h with ⟨e, hc, rfl⟩ | ⟨c, code, landed, u, -, hw, rfl⟩ | ⟨c, u, hc, hw, rfl⟩
    · exact .of_check_error hc
    · exact .of_transport code (memWrite_initd hw)
    · exact .encoded rfl rfl hc (memWrite_initd hw)
  | get ch =>
    rcases execGet_cases h with ⟨e, hc, rfl⟩ | ⟨c, code, u, -, hr, rfl⟩ | ⟨c, lo, code, u, v, -, hr, hr', rfl⟩ |
      ⟨c, lo, hi, u, v, -, hr, hr', rfl⟩
    · exact .of_check_error hc
    · exact .of_transport code (memRead_initd hr)
    · exact .of_transport code ((memRead_initd hr').trans (memRead_initd hr))
    · exact .decoded rfl ((memRead_initd hr').trans (memRead_initd hr))

/-- `RSP.INITD` is the initialised bit after every command. -/
theorem Responds.rsp_initd {i : Instr} {s t : State} (h : Responds i s t) : t.rsp.initd = t.initd := by
  cases h <;> rfl

/-- Only INIT writes the initialised bit. -/
theorem Responds.initd_eq {i : Instr} {s t : State} (h : Responds i s t) (hi : i ≠ .init) : t.initd = s.initd := by
  cases h with
  | raised _ _ hinitd => exact hinitd
  | acknowledged _ hinitd => exact hinitd hi
  | encoded _ _ _ hinitd => exact hinitd
  | decoded _ hinitd => exact hinitd

/-! The initialised bit (R15). -/

theorem exec_init_initd {s t : State} (h : exec .init s = .next t) : t.initd = true := by
  cases h
  rfl

theorem exec_keeps_initd {i : Instr} {s t : State} (h : exec i s = .next t) (hs : s.initd = true) : t.initd = true := by
  by_cases hi : i = .init
  · subst hi
    exact exec_init_initd h
  · exact ((responds_of_exec h).initd_eq hi).trans hs

theorem runWord_rsp_initd {w : CommandWord} {s t : State} (h : runWord w s = .next t) : t.rsp.initd = t.initd := by
  unfold runWord at h
  cases hd : decode w with
  | command i => rw [hd] at h; exact (responds_of_exec h).rsp_initd
  | illegal why => rw [hd] at h; cases h; rfl

/-- Before INIT every other command ends in `NotInitialized` (R114). -/
theorem exec_of_not_initd {i : Instr} {s : State} (hi : i ≠ .init) (hs : s.initd = false) :
    exec i s = .next (raise .notInitialized 0 (failDuty i) s) := by
  have hc (ch : Nat) : checkChannel ch s = .error .notInitialized := checkChannel_of_not_initd hs
  cases i with
  | init => exact absurd rfl hi
  | cfg ch off scale => simp only [exec, execCfg, hc]; rfl
  | enc ch duty => simp only [exec, execEnc, hc]; rfl
  | dec ch raw => simp only [exec, execDec, hc]; rfl
  | set ch duty => simp only [exec, execSet, hc]; rfl
  | get ch => simp only [exec, execGet, hc]; rfl

/-- Settles O11: the four ways to respond leave `INITD` to INIT alone, and the channel check refuses the rest before it. -/
theorem initialisedBitRules : Obligations.InitialisedBitRules := by
  refine ⟨rfl, fun s t => exec_init_initd, fun i s t => exec_keeps_initd, fun w s t h => ?_, fun i s hi hs => ?_⟩
  · rw [word_getLsbD_three, runWord_rsp_initd h]
  · exact ⟨_, exec_of_not_initd hi hs, rfl, rfl⟩

/-! The fields of the response (R19) and its flags (R18). -/

/-- Settles O46, by the four ways to respond. -/
theorem fieldsProducedByCommand : Obligations.FieldsProducedByCommand := by
  intro i s t h
  have hr := responds_of_exec h
  have hrsp : ∀ r, exec i { s with rsp := r } = .next t := fun r => (exec_respond i s r).trans h
  refine ⟨hr.rsp_initd, ?_, ?_, hrsp⟩
  · intro hok
    cases hr with
    | raised hne => exact absurd hok hne
    | acknowledged hpay => simp [Rsp.blank, Payload.zero, hpay]
    | encoded hpay hch hcheck =>
      obtain ⟨-, hentry⟩ := checkChannel_ok_iff.mp hcheck
      refine ⟨rfl, fun hn => by simp [hpay] at hn, fun _ => rfl, fun ch' c' _ hch' hentry' => ?_⟩
      rw [hch, Option.some.injEq] at hch'
      rw [← hch', hentry, Option.some.injEq] at hentry'
      exact congrArg CalEntry.base hentry'
    | decoded hduty => simp [Rsp.blank, Payload.zero, hduty, answersPayload_of_answersDuty hduty]
  · intro herr
    cases hr with
    | raised _ hterr => simpa [Rsp.blank, Payload.zero, failDuty, Config.dutySentinel] using hterr
    | acknowledged => exact absurd rfl herr
    | encoded => exact absurd rfl herr
    | decoded => exact absurd rfl herr

/-- Settles O47: only an encoded response has flags, and they are its payload's. -/
theorem flagsOnlyFromEncodingCommands : Obligations.FlagsOnlyFromEncodingCommands := by
  intro i s t h
  cases responds_of_exec h with
  | raised => simp [Rsp.blank, Payload.zero]
  | acknowledged => simp [Rsp.blank, Payload.zero]
  | encoded hpay =>
    refine ⟨rfl, rfl, not_foffFlag_and_fonFlag_encodeDuty _ _, fun hn => ?_⟩
    exact hn.elim (fun hf => by simp [hpay] at hf) (absurd rfl)
  | decoded => simp [Rsp.blank, Payload.zero]

end Sys2Proof.Proofs
end

section
/-! PROOFS. The family 20_memory.md: the bus transactions of each command, and from them the obligation O50. -/

namespace Sys2Proof.Proofs
open Sys2Proof.Machine Sys2Proof.Claims

/-! What one transaction of the encoder appends to the record of the bus. -/

theorem memWrite_bus {a : Byte} {p : Payload} {s t : State} {r : WriteReply} (h : memWrite a p s = some (r, t)) :
    t.bus = s.bus ++ [⟨.encoder, Config.devAddr, a, .write p.bytes r.failure⟩] := by
  obtain ⟨-, rfl⟩ := memWrite_some h
  rfl

theorem memRead_bus {a : Byte} {s t : State} {r : ReadReply} (h : memRead a s = some (r, t)) :
    t.bus = s.bus ++ [⟨.encoder, Config.devAddr, a, .read r⟩] := by
  obtain ⟨-, rfl⟩ := memRead_some h
  rfl

/-- The two reads of a GET, in their order. -/
theorem memRead_memRead_bus {a b : Byte} {s t u : State} {r q : ReadReply} (hr : memRead a s = some (r, t))
    (hq : memRead b t = some (q, u)) :
    u.bus = s.bus ++ [⟨.encoder, Config.devAddr, a, .read r⟩, ⟨.encoder, Config.devAddr, b, .read q⟩] := by
  rw [memRead_bus hq, memRead_bus hr, List.append_assoc]
  rfl

/-! The transactions of one command, by the error it ends in. -/

/-- The channel check ends a command in neither of the two errors that follow a transaction. -/
theorem checkChannel_error_ne {ch : Nat} {s : State} {e : Err} (h : checkChannel ch s = .error e) :
    e ≠ .ok ∧ e ≠ .transportFailure := by
  rcases checkChannel_error_cases h with ⟨-, rfl⟩ | ⟨-, -, rfl⟩ <;> decide

theorem entry_of_checkChannel {ch : Nat} {s : State} {c : CalEntry} (h : checkChannel ch s = .ok c) :
    s.entry ch = some c :=
  (checkChannel_ok_iff.mp h).2

/-- INIT, CFG, ENC and DEC make no transaction. -/
theorem exec_bus_of_not_set_get {i : Instr} {s t : State} (h : exec i s = .next t)
    (hset : ∀ ch duty, i ≠ .set ch duty) (hget : ∀ ch, i ≠ .get ch) : t.bus = s.bus := by
  cases i with
  | init => cases h; rfl
  | cfg ch off scale => rcases execCfg_cases h with ⟨e, -, rfl⟩ | ⟨c, -, -, rfl⟩ | ⟨c, -, -, rfl⟩ <;> rfl
  | enc ch duty => rcases execEnc_cases h with ⟨e, -, rfl⟩ | ⟨c, -, rfl⟩ <;> rfl
  | dec ch raw => rcases execDec_cases h with ⟨e, -, rfl⟩ | ⟨c, -, rfl⟩ <;> rfl
  | set ch duty => exact absurd rfl (hset ch duty)
  | get ch => exact absurd rfl (hget ch)

/-- A SET is refused before it reaches the target, or makes its one write. -/
theorem execSet_bus_cases {ch : Nat} {duty : Int} {s t : State} (h : execSet ch duty s = .next t) :
    ((t.rsp.err ≠ .ok ∧ t.rsp.err ≠ .transportFailure) ∧ t.bus = s.bus) ∨
    ((t.rsp.err = .ok ∨ t.rsp.err = .transportFailure) ∧ ∃ c failure, s.entry ch = some c ∧
      t.bus = s.bus ++ [⟨.encoder, Config.devAddr, c.base, .write (c.encodeDuty duty).payload.bytes failure⟩]) := by
  rcases execSet_cases h with ⟨e, hc, rfl⟩ | ⟨c, code, landed, u, hc, hw, rfl⟩ | ⟨c, u, hc, hw, rfl⟩
  · exact .inl ⟨checkChannel_error_ne hc, rfl⟩
  · have hbus := memWrite_bus hw
    exact .inr ⟨.inr rfl, c, _, entry_of_checkChannel hc, hbus⟩
  · have hbus := memWrite_bus hw
    exact .inr ⟨.inl rfl, c, _, entry_of_checkChannel hc, hbus⟩

/-- A GET is refused before it reaches the target, or makes its two reads, or stops at the one that failed. -/
theorem execGet_bus_cases {ch : Nat} {s t : State} (h : execGet ch s = .next t) :
    ((t.rsp.err ≠ .ok ∧ t.rsp.err ≠ .transportFailure) ∧ t.bus = s.bus) ∨
    (t.rsp.err = .ok ∧ ∃ c lo hi, s.entry ch = some c ∧ t.bus = s.bus ++
      [⟨.encoder, Config.devAddr, c.base, .read (.byte lo)⟩, ⟨.encoder, Config.devAddr, c.base + 1, .read (.byte hi)⟩]) ∨
    (t.rsp.err = .transportFailure ∧ ∃ c, s.entry ch = some c ∧
      (t.bus = s.bus ++ [⟨.encoder, Config.devAddr, c.base, .read (.fail t.rsp.terr)⟩] ∨
        ∃ lo, t.bus = s.bus ++ [⟨.encoder, Config.devAddr, c.base, .read (.byte lo)⟩,
          ⟨.encoder, Config.devAddr, c.base + 1, .read (.fail t.rsp.terr)⟩])) := by
  rcases execGet_cases h with ⟨e, hc, rfl⟩ | ⟨c, code, u, hc, hr, rfl⟩ | ⟨c, lo, code, u, v, hc, hr, hr', rfl⟩ |
    ⟨c, lo, hi, u, v, hc, hr, hr', rfl⟩
  · exact .inl ⟨checkChannel_error_ne hc, rfl⟩
  · have hbus := memRead_bus hr
    exact .inr (.inr ⟨rfl, c, entry_of_checkChannel hc, .inl hbus⟩)
  · have hbus := memRead_memRead_bus hr hr'
    exact .inr (.inr ⟨rfl, c, entry_of_checkChannel hc, .inr ⟨lo, hbus⟩⟩)
  · have hbus := memRead_memRead_bus hr hr'
    exact .inr (.inl ⟨rfl, c, lo, hi, entry_of_checkChannel hc, hbus⟩)

/-- A command that ends in another error than `TransportFailure` makes no transaction. -/
theorem exec_bus_of_refused {i : Instr} {s t : State} (h : exec i s = .next t) (hok : t.rsp.err ≠ .ok)
    (hfail : t.rsp.err ≠ .transportFailure) : t.bus = s.bus := by
  cases i with
  | set ch duty =>
    rcases execSet_bus_cases h with ⟨-, hbus⟩ | ⟨herr, -⟩
    · exact hbus
    · exact absurd herr (not_or.mpr ⟨hok, hfail⟩)
  | get ch =>
    rcases execGet_bus_cases h with ⟨-, hbus⟩ | ⟨herr, -⟩ | ⟨herr, -⟩
    · exact hbus
    · exact absurd herr hok
    · exact absurd herr hfail
  | init | cfg | enc | dec => exact exec_bus_of_not_set_get h nofun nofun

/-- An illegal word completes with no transaction (R54). -/
theorem runWord_illegal {w : CommandWord} {why : Illegal} (h : decode w = .illegal why) (s : State) :
    runWord w s = .next (raise .illegalCommand 0 0 s) := by
  rw [runWord, h]

/-- Settles O50, by what SET and GET append to the bus in each way they can end; no other command reaches it. -/
theorem transactionsOfEachCommand : Obligations.TransactionsOfEachCommand := by
  refine ⟨fun i s t h => ⟨exec_bus_of_not_set_get h, ?_, ?_, ?_, exec_bus_of_refused h⟩,
    fun w why s hw => ⟨_, runWord_illegal hw s, rfl⟩⟩
  · rintro ch duty rfl herr
    rcases execSet_bus_cases h with ⟨hne, -⟩ | ⟨-, hwrite⟩
    · exact absurd herr (not_or.mpr hne)
    · exact hwrite
  · rintro ch rfl herr
    rcases execGet_bus_cases h with ⟨⟨hok, -⟩, -⟩ | ⟨-, hreads⟩ | ⟨hfail, -⟩
    · exact absurd herr hok
    · exact hreads
    · exact absurd (herr.symm.trans hfail) (by decide)
  · rintro ch rfl herr
    rcases execGet_bus_cases h with ⟨⟨-, hne⟩, -⟩ | ⟨hok, -⟩ | ⟨-, hstop⟩
    · exact absurd herr hne
    · exact absurd (hok.symm.trans herr) (by decide)
    · exact hstop

end Sys2Proof.Proofs
end

section
/-! PROOFS. The family 30_encoding.md: the number of a command word, the rows of the decoder's table by the fields they check,
the illegal words, the fields of the response word, and from them the obligations O3, O4, O6, O7 and O20. -/

namespace Sys2Proof.Proofs
open Sys2Proof.Machine Sys2Proof.Claims

/-! The number of a command word (R50). -/

theorem toNat_append_eq {m n : Nat} (x : BitVec m) (y : BitVec n) : (x ++ y).toNat = x.toNat * 2 ^ n + y.toNat := by
  rw [BitVec.toNat_append, ← Nat.shiftLeft_add_eq_or_of_lt y.isLt, Nat.shiftLeft_eq]

theorem packCommand_toNat (opc rsv : BitVec 4) (ch : Byte) (a b : Half) :
    (packCommand opc rsv ch a b).toNat =
      opc.toNat * 2 ^ 44 + rsv.toNat * 2 ^ 40 + ch.toNat * 2 ^ 32 + a.toNat * 2 ^ 16 + b.toNat := by
  simp only [packCommand, toNat_append_eq]
  omega

/-! The rows of the decoder's table (R53), by the fields they check. -/

/-- The channel bits that a command's row checks. -/
def chMask : Instr → Byte
  | .init => 0xFF
  | .cfg _ _ _ | .enc _ _ | .dec _ _ | .set _ _ | .get _ => 0

/-- The bits of field `A` that a command's row checks. -/
def aMask : Instr → Half
  | .init | .dec _ _ | .get _ => 0xFFFF
  | .cfg _ _ _ | .enc _ _ | .set _ _ => 0

/-- The bits of field `B` that a command's row checks. -/
def bMask : Instr → Half
  | .init | .enc _ _ | .set _ _ | .get _ => 0xFFFF
  | .cfg _ _ _ | .dec _ _ => 0

/-- The must-be-zero fields of the command are 0 in the word (R53). -/
def ZeroFields (w : CommandWord) : Instr → Prop
  | .init => chField w = 0 ∧ aField w = 0 ∧ bField w = 0
  | .cfg _ _ _ => True
  | .enc _ _ => bField w = 0
  | .dec _ _ => aField w = 0
  | .set _ _ => bField w = 0
  | .get _ => aField w = 0 ∧ bField w = 0

/-- The command of the same kind with the operands that a word's fields stand for (R51). -/
def readAs (w : CommandWord) : Instr → Instr
  | .init => .init
  | .cfg _ _ _ => .cfg (chField w).toNat (aField w).toInt (bField w).toNat
  | .enc _ _ => .enc (chField w).toNat (aField w).toInt
  | .dec _ _ => .dec (chField w).toNat (bField w).toNat
  | .set _ _ => .set (chField w).toNat (aField w).toInt
  | .get _ => .get (chField w).toNat

theorem opcode_and_mask (x : BitVec 4) : x &&& 15#4 = x := BitVec.and_allOnes

theorem byte_and_mask (x : Byte) : x &&& 255#8 = x := BitVec.and_allOnes

theorem half_and_mask (x : Half) : x &&& 65535#16 = x := BitVec.and_allOnes

/-- A row checks the operation code and the reserved field whole; of the operands it checks what its masks say. -/
theorem row_eq_pack (i : Instr) :
    i.row = ⟨packCommand 15#4 15#4 (chMask i) (aMask i) (bMask i), packCommand (Laws.OperationCode.codeOf i) 0 0 0 0⟩ := by
  cases i <;> simp only [Instr.row, chMask, aMask, bMask, Laws.OperationCode.codeOf] <;> decide

/-- Masking and comparing the word is masking and comparing each of its fields. -/
theorem matchesWord_pack (opc : BitVec 4) (mch : Byte) (ma mb : Half) (w : CommandWord) :
    TableRow.matchesWord ⟨packCommand 15#4 15#4 mch ma mb, packCommand opc 0 0 0 0⟩ w = true ↔
      opcField w = opc ∧ rsvField w = 0 ∧ chField w &&& mch = 0 ∧ aField w &&& ma = 0 ∧ bField w &&& mb = 0 := by
  conv_lhs => rw [← packCommand_fields w]
  rw [TableRow.matchesWord, beq_iff_eq, packCommand_and, packCommand_inj, opcode_and_mask, opcode_and_mask]

theorem matchesWord_row_iff (i : Instr) (w : CommandWord) :
    i.row.matchesWord w = true ↔ opcField w = Laws.OperationCode.codeOf i ∧ rsvField w = 0 ∧ ZeroFields w i := by
  rw [row_eq_pack, matchesWord_pack]
  cases i <;> simp [chMask, aMask, bMask, ZeroFields, byte_and_mask, half_and_mask]

/-- A command has the row of its kind, whatever its operands are. -/
theorem row_readAs (w : CommandWord) (i : Instr) : (readAs w i).row = i.row := by
  cases i <;> rfl

theorem mem_tableRows_iff {r : TableRow} : r ∈ tableRows ↔ ∃ i : Instr, i.row = r := by
  constructor
  · simp only [tableRows, List.mem_cons, List.not_mem_nil, or_false]
    rintro (rfl | rfl | rfl | rfl | rfl | rfl) <;> exact ⟨_, rfl⟩
  · rintro ⟨i, rfl⟩
    cases i <;> simp [tableRows, Instr.row]

/-! A row matches exactly the words of its command (R53). -/

theorem decode_of_matchesWord {i : Instr} {w : CommandWord} (h : i.row.matchesWord w = true) :
    decode w = .command (readAs w i) := by
  obtain ⟨hopc, hrsv, hzero⟩ := (matchesWord_row_iff i w).mp h
  unfold decode
  rw [if_neg (not_not.mpr hrsv), hopc]
  cases i with
  | cfg => rfl
  | init | enc | dec | set | get =>
    simp only [ZeroFields] at hzero
    simp [Laws.OperationCode.codeOf, requireZero, hzero, readAs]

theorem matchesWord_of_decode {i : Instr} {w : CommandWord} (h : decode w = .command i) : i.row.matchesWord w = true := by
  obtain ⟨hrsv, hcases⟩ := decode_command_cases h
  rw [matchesWord_row_iff]
  rcases hcases with ⟨hopc, hch, ha, hb, rfl⟩ | ⟨hopc, rfl⟩ | ⟨hopc, hb, rfl⟩ | ⟨hopc, ha, rfl⟩ | ⟨hopc, hb, rfl⟩ |
    ⟨hopc, ha, hb, rfl⟩
  · exact ⟨hopc, hrsv, hch, ha, hb⟩
  · exact ⟨hopc, hrsv, trivial⟩
  · exact ⟨hopc, hrsv, hb⟩
  · exact ⟨hopc, hrsv, ha⟩
  · exact ⟨hopc, hrsv, hb⟩
  · exact ⟨hopc, hrsv, ha, hb⟩

theorem matchesWord_iff_decode {r : TableRow} (hr : r ∈ tableRows) (w : CommandWord) :
    r.matchesWord w = true ↔ ∃ i, decode w = .command i ∧ i.row = r := by
  constructor
  · obtain ⟨i, rfl⟩ := mem_tableRows_iff.mp hr
    exact fun h => ⟨_, decode_of_matchesWord h, row_readAs w i⟩
  · rintro ⟨i, hd, rfl⟩
    exact matchesWord_of_decode hd

/-- No word matches two rows, since it decodes to one command. -/
theorem row_unique {r r' : TableRow} (hr : r ∈ tableRows) (hr' : r' ∈ tableRows) {w : CommandWord}
    (h : r.matchesWord w = true) (h' : r'.matchesWord w = true) : r = r' := by
  obtain ⟨i, hd, rfl⟩ := (matchesWord_iff_decode hr w).mp h
  obtain ⟨j, hd', rfl⟩ := (matchesWord_iff_decode hr' w).mp h'
  rw [hd, Decoded.command.injEq] at hd'
  rw [hd']

/-- Settles O3: a word's number is the sum of its fields in their places, and a row matches what decodes to its command. -/
theorem commandWordsFollowTable : Obligations.CommandWordsFollowTable := by
  refine ⟨rfl, fun ch off S hw => ?_, fun ch duty hw => ?_, fun ch raw hw => ?_, fun ch duty hw => ?_, fun ch hw => ?_,
    fun w r hr => matchesWord_iff_decode hr w, fun w r hr r' hr' => row_unique hr hr'⟩
  all_goals simp only [Instr.wellFormed, Bool.and_eq_true] at hw
  · obtain ⟨⟨hch, -⟩, hS⟩ := hw
    simp [encode, packCommand_toNat, ofNat8_toNat hch, ofNat16_toNat hS]
  · simp [encode, packCommand_toNat, ofNat8_toNat hw.1]
  · simp [encode, packCommand_toNat, ofNat8_toNat hw.1, ofNat16_toNat hw.2]
  · simp [encode, packCommand_toNat, ofNat8_toNat hw.1]
  · simp [encode, packCommand_toNat, ofNat8_toNat hw]

/-! Illegal words (R54). -/

theorem noRow_iff_decode_illegal (w : CommandWord) :
    (∀ r ∈ tableRows, r.matchesWord w = false) ↔ ∃ why, decode w = .illegal why := by
  constructor
  · intro hno
    cases hd : decode w with
    | command i => exact absurd (matchesWord_of_decode hd) (by simp [hno _ (mem_tableRows_iff.mpr ⟨i, rfl⟩)])
    | illegal why => exact ⟨why, rfl⟩
  · rintro ⟨why, hd⟩ r hr
    rw [Bool.eq_false_iff, ne_eq, matchesWord_iff_decode hr w, hd]
    rintro ⟨i, hi, -⟩
    cases hi

theorem requireZero_illegal_iff (zero : Bool) (i : Instr) :
    (∃ why, requireZero zero i = .illegal why) ↔ zero = false := by
  cases zero <;> simp [requireZero]

/-- The illegal words, in the order of the decoder's checks: the reserved field, then by operation code. -/
theorem decode_illegal_iff (w : CommandWord) :
    (∃ why, decode w = .illegal why) ↔
      ((opcField w).toNat = 0 ∨ 7 ≤ (opcField w).toNat) ∨ rsvField w ≠ 0 ∨
      (opcField w = 1 ∧ (chField w ≠ 0 ∨ aField w ≠ 0 ∨ bField w ≠ 0)) ∨
      ((opcField w = 3 ∨ opcField w = 5) ∧ bField w ≠ 0) ∨
      (opcField w = 4 ∧ aField w ≠ 0) ∨
      (opcField w = 6 ∧ (aField w ≠ 0 ∨ bField w ≠ 0)) := by
  unfold decode
  by_cases hrsv : rsvField w = 0
  · rw [if_neg (not_not.mpr hrsv)]
    split
    case h_7 h1 h2 h3 h4 h5 h6 =>
      simp only [imp_false] at h1 h2 h3 h4 h5 h6
      exact iff_of_true ⟨_, rfl⟩ (.inl (by omega))
    all_goals
      rename_i hopc
      simp [opcField_eq_of_toNat hopc, requireZero_illegal_iff, hrsv, or_assoc, imp_iff_not_or]
  · rw [if_pos hrsv]
    exact iff_of_true ⟨_, rfl⟩ (.inr (.inl hrsv))

/-- Settles O4: a word with no row is one the decoder rejects, and a rejected word only writes its error. -/
theorem illegalWordsOnlyReport : Obligations.IllegalWordsOnlyReport := by
  refine ⟨fun w => (noRow_iff_decode_illegal w).trans (decode_illegal_iff w), fun w s hno => ?_, by decide⟩
  obtain ⟨why, hd⟩ := (noRow_iff_decode_illegal w).mp hno
  exact runWord_illegal hd s

/-! The override payloads (R59, R60, R76). -/

theorem classOf_of_nonpos {duty : Int} (h : duty ≤ 0) (S : Nat) : classOf duty S = .fullOff := if_pos h

theorem classOf_of_span_le {duty : Int} {S : Nat} (hpos : 0 < duty) (h : Config.spanScaled ≤ duty * (S : Int)) :
    classOf duty S = .fullOn := by
  rw [classOf, if_neg (not_le.mpr hpos), if_pos h]

/-- Settles O20, by the class of the duty cycle, which is all that the payload and its flags depend on. -/
theorem overridePayloadsAreConstant : Obligations.OverridePayloadsAreConstant := by
  intro duty off S
  rw [foffFlag_codecEncode, fonFlag_codecEncode]
  constructor
  · intro hle
    have hc : classOf duty S = .fullOff := classOf_of_nonpos hle S
    exact ⟨codecEncode_fullOff off hc, by simp [hc], by simp [hc]⟩
  · intro hpos hspan
    have hc : classOf duty S = .fullOn := classOf_of_span_le hpos hspan
    exact ⟨codecEncode_fullOn off hc, by simp [hc], by simp [hc]⟩

/-! The response word (R56). -/

/-- The fields of more than one bit. -/
theorem word_fields (r : Rsp) :
    r.word.extractLsb' 0 3 = r.err.code ∧ r.word.extractLsb' 8 8 = r.terr ∧ r.word.extractLsb' 16 8 = r.addr ∧
    r.word.extractLsb' 24 8 = r.payload.onLo ∧ r.word.extractLsb' 32 8 = r.payload.onHi ∧
    r.word.extractLsb' 40 8 = r.payload.offLo ∧ r.word.extractLsb' 48 8 = r.payload.offHi ∧
    r.word.extractLsb' 56 32 = r.duty := by
  simp (disch := decide) only [Rsp.word, Rsp.statusByte, BitVec.extractLsb'_append_eq_of_add_le,
    BitVec.extractLsb'_append_eq_of_le]
  simp

/-- The four flags; bit 3 is `word_getLsbD_three`. -/
theorem word_flags (r : Rsp) :
    r.word.getLsbD 4 = r.foff ∧ r.word.getLsbD 5 = r.fon ∧ r.word.getLsbD 6 = r.ovf ∧ r.word.getLsbD 7 = r.eq := by
  simp only [Rsp.word, Rsp.statusByte, BitVec.getLsbD_append]
  simp

theorem ofCode_eq_some_iff (c : BitVec 3) (e : Err) : Err.ofCode c = some e ↔ e.code = c := by
  revert c
  cases e <;> decide

theorem ofCode_eq_none_iff (c : BitVec 3) : Err.ofCode c = none ↔ c = 6 ∨ c = 7 := by
  revert c
  decide

theorem ofWord_word (r : Rsp) : Rsp.ofWord r.word = some r := by
  simp only [Rsp.ofWord, word_fields, word_getLsbD_three, word_flags, (ofCode_eq_some_iff _ r.err).mpr rfl, Option.map_some]

/-- Settles O6, by where each field stands in the word. -/
theorem responseWordHoldsEveryField : Obligations.ResponseWordHoldsEveryField := by
  intro r
  simp only [word_fields, word_getLsbD_three, word_flags, ofWord_word, and_self]

/-! The words of response records (R57). -/

/-- A word has no record exactly when its error code is one that is never produced. -/
theorem ofWord_eq_none_iff (w : ResponseWord) :
    Rsp.ofWord w = none ↔ w.extractLsb' 0 3 = 6 ∨ w.extractLsb' 0 3 = 7 :=
  Option.map_eq_none_iff.trans (ofCode_eq_none_iff _)

theorem ofBool_getLsbD {n : Nat} (x : BitVec n) (k : Nat) : BitVec.ofBool (x.getLsbD k) = x.extractLsb' k 1 := by
  simp [BitVec.eq_of_getLsbD_eq_iff]

/-- The record's word is put together from the fields it was read from, which lie side by side. -/
theorem word_of_ofWord {w : ResponseWord} {r : Rsp} (h : Rsp.ofWord w = some r) : r.word = w := by
  obtain ⟨e, he, rfl⟩ := Option.map_eq_some_iff.mp h
  simp (disch := decide) only [Rsp.word, Rsp.statusByte, (ofCode_eq_some_iff _ _).mp he, ofBool_getLsbD,
    BitVec.extractLsb'_append_extractLsb'_eq_extractLsb']
  exact BitVec.extractLsb'_eq_self

/-- Settles O7: a record's word reads back, so its code is neither 6 nor 7; a word with another code has a record. -/
theorem errorNumbers : Obligations.ErrorNumbers := by
  refine ⟨rfl, rfl, rfl, rfl, rfl, rfl, fun r => ?_, fun w h6 h7 => ?_⟩
  · rw [ne_eq, ne_eq, ← not_or, ← ofWord_eq_none_iff, ofWord_word]
    exact Option.some_ne_none r
  · obtain ⟨r, hr⟩ := Option.ne_none_iff_exists'.mp (mt (ofWord_eq_none_iff w).mp (not_or.mpr ⟨h6, h7⟩))
    exact ⟨r, hr, word_of_ofWord hr⟩

end Sys2Proof.Proofs
end

section
/-! PROOFS. The family 40_calibration.md: one channel's entry after CFG, how CFG ends for each of its causes, the words with
INIT's operation code, and from them the obligations O12 to O15. -/

namespace Sys2Proof.Proofs
open Sys2Proof.Machine Sys2Proof.Claims

/-! The table entries after an update of the state. -/

@[simp] theorem entry_raise (e : Err) (terr : Byte) (duty : DutyWord) (s : State) (k : Nat) :
    (raise e terr duty s).entry k = s.entry k := rfl

@[simp] theorem entry_acknowledge (s : State) (k : Nat) : (acknowledge s).entry k = s.entry k := rfl

theorem entry_configure_same {ch : Nat} (h : ch < 16) (s : State) (c : CalEntry) (off scale : Half) :
    (s.configure ch c off scale).entry ch = some { c with off, scale } := by
  simp [State.entry, h]

theorem entry_configure_other {k ch : Nat} (hk : k ≠ ch) (s : State) (c : CalEntry) (off scale : Half) :
    (s.configure ch c off scale).entry k = s.entry k := by
  simp [State.entry, Vector.getElem?_setIfInBounds_ne hk.symm]

/-! The ways CFG can end, by their causes (R66, R117). -/

theorem exec_cfg_of_check_error {ch : Nat} {s : State} {e : Err} (h : checkChannel ch s = .error e) (off : Int) (S : Nat) :
    exec (.cfg ch off S) s = .next (raise e 0 0 s) := by
  rw [exec, execCfg, h]

theorem exec_cfg_of_zero_scale {ch : Nat} {s : State} {c : CalEntry} (h : checkChannel ch s = .ok c) (off : Int) :
    exec (.cfg ch off 0) s = .next (raise .configError 0 0 s) := by
  rw [exec, execCfg, h]
  rfl

theorem exec_cfg_of_scale {ch : Nat} {s : State} {c : CalEntry} {S : Nat} (h : checkChannel ch s = .ok c)
    (hS : BitVec.ofNat 16 S ≠ 0) (off : Int) :
    exec (.cfg ch off S) s =
      .next (acknowledge (s.configure ch c (BitVec.ofInt 16 off) (BitVec.ofNat 16 S))) := by
  rw [exec, execCfg, h]
  exact if_neg hS

/-- A scale number other than 0 is not 0 in its field (R51). -/
theorem ofNat16_ne_zero {v : Nat} (h : unsignedFits v = true) (hv : v ≠ 0) : BitVec.ofNat 16 v ≠ 0 := by
  intro hz
  rw [← ofNat16_toNat h, hz] at hv
  exact hv rfl

/-- What an error writes, field by field (R118). -/
theorem raise_eq_errorRsp (e : Err) (terr : Byte) (duty : DutyWord) (s : State) :
    raise e terr duty s = { s with rsp := errorRsp e s.initd terr duty } := rfl

/-- Settles O14: the check's error and the zero scale write the response only, and no other way to end is an error. -/
theorem failedCfgChangesNoCalibration : Obligations.FailedCfgChangesNoCalibration := by
  intro ch off S s t h herr
  rcases execCfg_cases h with ⟨e, -, rfl⟩ | ⟨c, -, -, rfl⟩ | ⟨c, -, -, rfl⟩
  · exact ⟨rfl, entry_raise e 0 0 s, rfl⟩
  · exact ⟨rfl, entry_raise .configError 0 0 s, rfl⟩
  · exact absurd rfl herr

/-- Settles O15: the one way CFG ends without an error is to configure the channel's entry. -/
theorem cfgChangesTwoFieldsOnly : Obligations.CfgChangesTwoFieldsOnly := by
  intro ch off S s t h hok
  rcases execCfg_cases h with ⟨e, hc, rfl⟩ | ⟨c, -, -, rfl⟩ | ⟨c, hc, -, rfl⟩
  · exact absurd hok (checkChannel_error_ne hc).1
  · cases hok
  · have hentry : s.entry ch = some c := entry_of_checkChannel hc
    exact ⟨fun k hk => entry_configure_other hk s c _ _, ⟨c, hentry, entry_configure_same (lt_of_entry hentry) s c _ _⟩,
      rfl⟩

/-- Settles O13: each cause has its one way to end, and where CFG completes its operands survive their fields. -/
theorem cfgWritesOffsetAndScale : Obligations.CfgWritesOffsetAndScale := by
  intro ch off S s hw
  simp only [Instr.wellFormed, Bool.and_eq_true] at hw
  obtain ⟨⟨-, hoff⟩, hS⟩ := hw
  refine ⟨fun hi => ?_, fun hi hch => ?_, fun hi hch hz => ?_, fun hi hch hz => ?_, fun w hopc hrsv => ?_⟩
  · rw [exec_cfg_of_check_error (checkChannel_of_not_initd hi), raise_eq_errorRsp, hi]
  · rw [exec_cfg_of_check_error (checkChannel_of_bad_channel hi hch), raise_eq_errorRsp, hi]
  · rw [hz, exec_cfg_of_zero_scale (checkChannel_ok_iff.mpr ⟨hi, entry_of_lt s hch⟩), raise_eq_errorRsp, hi]
  · have hexec := exec_cfg_of_scale (checkChannel_ok_iff.mpr ⟨hi, entry_of_lt s hch⟩) (ofNat16_ne_zero hS hz) off
    obtain ⟨hother, ⟨c, hc, hd⟩, hframe⟩ := cfgChangesTwoFieldsOnly ch off S s _ hexec rfl
    refine ⟨_, hexec, ?_, ⟨c, _, hc, hd, rfl, ofInt16_toInt hoff, ofNat16_toNat hS⟩, hother, hframe⟩
    rw [acknowledge_rsp, configure_initd, hi]
    rfl
  · exact decode_of_matchesWord ((matchesWord_row_iff (.cfg 0 0 0) w).mpr ⟨hopc, hrsv, trivial⟩)

/-! INIT. -/

/-- INIT's word is the only command with its operation code (R65). -/
theorem decode_illegal_of_init_opcode {w : CommandWord} (hopc : opcField w = 1) (hw : w ≠ encode .init) :
    ∃ why, decode w = .illegal why := by
  cases hd : decode w with
  | illegal why => exact ⟨why, rfl⟩
  | command i =>
    obtain ⟨hrsv, ⟨-, hch, ha, hb, -⟩ | hother⟩ := decode_command_cases hd
    · have hword : w = encode .init := by rw [← packCommand_fields w, hopc, hrsv, hch, ha, hb]; rfl
      exact absurd hword hw
    · simp [hopc] at hother

/-- Settles O12: INIT writes the whole table from the defaults, and no second word is INIT. -/
theorem initRestoresDefaults : Obligations.InitRestoresDefaults := by
  have hword : encode .init = 0x100000000000 := rfl
  refine ⟨hword, fun w s hopc hw => ?_, fun s => ⟨_, rfl, ?_, rfl, rfl, rfl⟩⟩
  · obtain ⟨why, hd⟩ := decode_illegal_of_init_opcode hopc (hword ▸ hw)
    rw [runWord_illegal hd, raise_eq_errorRsp]
  · exact fun k hk => entry_of_table (f := CalEntry.default) rfl hk

end Sys2Proof.Proofs
end

section
/-! PROOFS. The family 41_codec.md: the scale factor's rationals as integer quotients, `Ceil`, the classes, the points and
their packing, `Decode`, the commands ENC and DEC, and from them the obligations O18, O19, O21, O22, O28, O31 and O33 to
O35. -/

namespace Sys2Proof.Proofs
open Sys2Proof.Machine Sys2Proof.Claims

/-! The rational formulas of the source in the integer forms of R92. -/

theorem div_scaleFactor (x : ℚ) (S : Nat) : x / scaleFactor S = x * 256 / S := by
  rw [scaleFactor, div_div_eq_mul_div]

theorem floor_mul_scaleFactor (a : Int) (S : Nat) : ⌊(a : ℚ) * scaleFactor S⌋ = a * S / 256 := by
  have h := Rat.floor_intCast_div_natCast (a * S) 256
  push_cast at h
  rw [scaleFactor, ← mul_div_assoc, h]

theorem span_le_mul_scaleFactor_iff (duty : Int) (S : Nat) :
    4096 ≤ (duty : ℚ) * scaleFactor S ↔ 1048576 ≤ duty * (S : Int) := by
  have h : 4096 ≤ (duty : ℚ) * scaleFactor S ↔ (1048576 : ℚ) ≤ (duty : ℚ) * S := by
    rw [scaleFactor, ← mul_div_assoc, le_div_iff₀ (by norm_num)]
    norm_num
  rw [h]
  exact_mod_cast Iff.rfl

theorem mul_scaleFactor_lt_span_iff (duty : Int) (S : Nat) :
    (duty : ℚ) * scaleFactor S < 4096 ↔ duty * (S : Int) < 1048576 :=
  lt_iff_lt_of_le_iff_le (span_le_mul_scaleFactor_iff duty S)

/-- The quotient rounded up, as R83 writes it with one division rounded down. -/
theorem ceil_natCast_div_eq (n : Nat) {S : Nat} (hS : 1 ≤ S) :
    ⌈(n : ℚ) / S⌉ = ((n : Int) + S - 1) / (S : Int) := by
  have hpos : (0 : Int) < S := by omega
  rw [Rat.ceil_natCast_div_natCast]
  have hlow := Int.mul_ediv_self_le (x := -(n : Int)) hpos.ne'
  have hhigh := Int.lt_mul_ediv_self_add (x := -(n : Int)) hpos
  rw [eq_comm, Int.ediv_eq_iff_of_pos hpos]
  constructor <;> linarith

/-! `Ceil` (R75). -/

theorem span_div_scaleFactor (S : Nat) : 4096 / scaleFactor S = ((1048576 : Int) : ℚ) / S := by
  rw [div_scaleFactor]
  norm_num

theorem ceilOf_eq_floor {S : Nat} (hS : 1 ≤ S) : ceilOf S = ⌊4096 / scaleFactor S⌋ := by
  rw [span_div_scaleFactor, Rat.floor_intCast_div_natCast, ceilOf_of_pos hS]

theorem ceilOf_range {S : Nat} (hS : 1 ≤ S) (hmax : S ≤ 65535) : 16 ≤ ceilOf S ∧ ceilOf S ≤ 1048576 := by
  rw [ceilOf_of_pos hS]
  constructor
  · rw [Int.le_ediv_iff_mul_le (by omega)]
    omega
  · exact Int.ediv_le_self _ (by norm_num)

/-- A scale number that divides the span makes `Ceil` exact. -/
theorem span_div_scaleFactor_of_dvd {S : Nat} (hS : 1 ≤ S) (h : S ∣ 1048576) : 4096 / scaleFactor S = (ceilOf S : ℚ) := by
  have hdvd : (S : Int) ∣ 1048576 := by exact_mod_cast h
  rw [span_div_scaleFactor, ceilOf_of_pos hS, Rat.intCast_div _ _ hdvd, Int.cast_natCast]

theorem span_div_scaleFactor_isInt_iff {S : Nat} (hS : 1 ≤ S) :
    (∃ n : Int, 4096 / scaleFactor S = n) ↔ S ∣ 1048576 := by
  constructor
  · rintro ⟨n, hn⟩
    have hS0 : (S : ℚ) ≠ 0 := by positivity
    rw [span_div_scaleFactor, div_eq_iff hS0] at hn
    have hspan : (1048576 : Int) = n * S := by exact_mod_cast hn
    exact_mod_cast Dvd.intro_left n hspan.symm
  · exact fun h => ⟨_, span_div_scaleFactor_of_dvd hS h⟩

/-- The divisors of the span are its powers of two (R75). -/
theorem dvd_span_iff_powerOfTwo (S : Nat) : S ∣ 1048576 ↔ powerOfTwo S :=
  Nat.dvd_prime_pow (m := 20) Nat.prime_two

/-- Settles O18: the span over the scale factor is the quotient of two integers, and its exact cases are the divisors. -/
theorem ceilIsFlooredSpan : Obligations.CeilIsFlooredSpan :=
  ⟨fun S hS => ⟨ceilOf_eq_floor hS, ceilOf_of_pos hS, ceilOf_range hS, span_div_scaleFactor_isInt_iff hS,
    dvd_span_iff_powerOfTwo S⟩, by decide⟩

/-! The classes of a duty cycle (R76). -/

theorem classOf_fullOff_iff (duty : Int) (S : Nat) : classOf duty S = .fullOff ↔ duty ≤ 0 := by
  refine ⟨fun h => ?_, fun h => classOf_of_nonpos h S⟩
  by_contra hpos
  rw [classOf, if_neg hpos] at h
  split at h <;> cases h

theorem classOf_fullOn_iff (duty : Int) (S : Nat) :
    classOf duty S = .fullOn ↔ 0 < duty ∧ 1048576 ≤ duty * (S : Int) := by
  refine ⟨fun h => ?_, fun h => classOf_of_span_le h.1 h.2⟩
  have hoff := (classOf_fullOff_iff duty S).not.mp (by simp [h])
  have hint := (classOf_interior_iff duty S).not.mp (by simp [h])
  omega

/-- Settles O19: each class is an integer comparison, and the end classes have constant payloads. -/
theorem dutyClassesByExactComparison : Obligations.DutyClassesByExactComparison := by
  intro duty S _
  rw [span_le_mul_scaleFactor_iff, mul_scaleFactor_lt_span_iff]
  refine ⟨classOf_fullOff_iff duty S, classOf_fullOn_iff duty S, classOf_interior_iff duty S, fun off hle => ?_,
    fun off hpos hspan => ?_⟩
  · rw [codecEncode_fullOff off ((classOf_fullOff_iff duty S).mpr hle)]
  · rw [codecEncode_fullOn off ((classOf_fullOn_iff duty S).mpr ⟨hpos, hspan⟩)]

/-! The two points and their packing (R78, R79). -/

theorem onPoint_eq_floor (duty off : Int) (S : Nat) :
    onPoint duty off S = ⌊((ceilOf S - duty + off : Int) : ℚ) * scaleFactor S⌋ :=
  (floor_mul_scaleFactor _ S).symm

theorem offPoint_eq_floor (off : Int) (S : Nat) : offPoint off S = ⌊(off : ℚ) * scaleFactor S⌋ :=
  (floor_mul_scaleFactor off S).symm

theorem lowByte_pack12_toNat (v : Int) : ((lowByte (pack12 v)).toNat : Int) = v % 4096 % 256 := by
  rw [lowByte, BitVec.toNat_ofNat, Nat.mod_mod, ← pack12_cast]
  rfl

theorem highByte_pack12_toNat (v : Int) : ((highByte (pack12 v)).toNat : Int) = v % 4096 / 256 := by
  have hlt := pack12_lt v
  rw [highByte, BitVec.toNat_ofNat, Nat.mod_eq_of_lt (by omega), ← pack12_cast]
  rfl

theorem highByte_pack12_lt (v : Int) : (highByte (pack12 v)).toNat < 16 := by
  have hhigh := highByte_pack12_toNat v
  omega

theorem outside12_iff (v : Int) : outside12 v = true ↔ v < 0 ∨ 4095 < v := by
  simp [outside12]

theorem ovfFlag_iff (on ofp : Int) : ovfFlag on ofp = true ↔ on < 0 ∨ 4095 < on ∨ ofp < 0 ∨ 4095 < ofp := by
  rw [ovfFlag, Bool.or_eq_true, outside12_iff, outside12_iff, or_assoc]

theorem eqFlag_pack12_iff (on ofp : Int) : eqFlag (pack12 on) (pack12 ofp) = true ↔ on % 4096 = ofp % 4096 := by
  rw [eqFlag, beq_iff_eq, ← pack12_cast, ← pack12_cast, Nat.cast_inj]

theorem pack12_of_range {v : Int} (hlow : 0 ≤ v) (hhigh : v ≤ 4095) : (pack12 v : Int) = v := by
  rw [pack12_cast, Int.emod_eq_of_lt hlow (by omega)]

/-- A value that its reduction changes was outside the range. -/
theorem outside12_of_pack12_ne {v : Int} (h : (pack12 v : Int) ≠ v) : outside12 v = true := by
  rw [outside12_iff]
  by_contra hin
  exact h (pack12_of_range (by omega) (by omega))

theorem ofInt12_toNat (v : Int) : (BitVec.ofInt 12 v).toNat = pack12 v := BitVec.toNat_ofInt v

theorem ofInt64_low12_toNat (v : Int) : ((BitVec.ofInt 64 v).extractLsb' 0 12).toNat = pack12 v := by
  rw [BitVec.extractLsb'_toNat, BitVec.toNat_ofInt, Nat.shiftRight_zero]
  unfold pack12
  omega

/-- Settles O21: the integer points are the floors of the source's formulas, and an interior class is no override. -/
theorem interiorPayloadHoldsFlooredPoints : Obligations.InteriorPayloadHoldsFlooredPoints := by
  intro duty off S _ hc
  simp only [foffFlag_codecEncode, fonFlag_codecEncode, ← onPoint_eq_floor, hc]
  rw [codecEncode_interior off hc, ← offPoint_eq_floor]
  exact ⟨lowByte_pack12_toNat _, highByte_pack12_toNat _, lowByte_pack12_toNat _, highByte_pack12_toNat _, rfl, rfl,
    ovfFlag_iff _ _, eqFlag_pack12_iff _ _⟩

/-- Settles O22, by the remainder modulo 4096, which both bit patterns and the bytes of an interior payload hold. -/
theorem packIsLowTwelveBits : Obligations.PackIsLowTwelveBits := by
  refine ⟨fun v => ⟨pack12_cast v, pack12_lt v, ofInt12_toNat v, ofInt64_low12_toNat v⟩, fun v => pack12_of_range,
    fun duty off S hc => ?_, by decide⟩
  rw [codecEncode_interior off hc]
  refine ⟨highByte_pack12_lt _, highByte_pack12_lt _, fun hne => ?_⟩
  exact Bool.or_eq_true_iff.mpr (hne.imp outside12_of_pack12_ne outside12_of_pack12_ne)

/-! `Decode` (R83, R86). -/

theorem codecDecode_of_pos (raw : Nat) (off : Int) {S : Nat} (hS : 1 ≤ S) :
    codecDecode raw off S = ceilOf S + off - ((raw : Int) * 256 + S - 1) / (S : Int) := by
  rw [codecDecode, divScale_of_pos _ hS]

theorem codecDecode_eq_sub_ceil (raw : Nat) (off : Int) {S : Nat} (hS : 1 ≤ S) :
    codecDecode raw off S = ceilOf S + off - ⌈(raw : ℚ) / scaleFactor S⌉ := by
  have hceil := ceil_natCast_div_eq (raw * 256) hS
  push_cast at hceil
  rw [codecDecode_of_pos raw off hS, div_scaleFactor, hceil]

/-- Settles O28: `Decode` subtracts the quotient rounded up, which the floor of the whole formula does too. -/
theorem decodeIsFlooredInverse : Obligations.DecodeIsFlooredInverse := by
  refine ⟨fun raw off S hS => ⟨?_, ?_, codecDecode_of_pos raw off hS⟩, rawOf_eq⟩
  · rw [codecDecode_eq_sub_ceil raw off hS, sub_eq_add_neg, sub_eq_add_neg, Int.floor_intCast_add, Int.floor_neg]
  · rw [codecDecode_eq_sub_ceil raw off hS, div_scaleFactor]

/-- Settles O31: the ON pairs of the two payloads are the raw values 0 and 4096. -/
theorem overridePayloadsDecodeByFormula : Obligations.OverridePayloadsDecodeByFormula := by
  refine ⟨fun duty off S hS hc => ?_, fun duty off S hS hc => ?_, by decide⟩
  · have hraw : rawOf Payload.fullOff.onLo Payload.fullOff.onHi = 0 := rfl
    rw [codecEncode_fullOff off hc, hraw, codecDecode_eq_sub_ceil 0 off hS]
    simp
  · have hraw : rawOf Payload.fullOn.onLo Payload.fullOn.onHi = 4096 := rfl
    rw [codecEncode_fullOn off hc, hraw, codecDecode_eq_sub_ceil 4096 off hS, Nat.cast_ofNat]
    refine ⟨rfl, fun hpow => ?_⟩
    rw [span_div_scaleFactor_of_dvd hS ((dvd_span_iff_powerOfTwo S).mpr hpow), Int.ceil_intCast]
    omega

/-! The ways ENC and DEC can end, by their causes (R89, R90, R117). -/

section
variable {ch : Nat} {s : State}

theorem exec_enc_of_check_error {e : Err} (h : checkChannel ch s = .error e) (duty : Int) :
    exec (.enc ch duty) s = .next (raise e 0 0 s) := by
  rw [exec, execEnc, h]

theorem exec_enc_of_check_ok {c : CalEntry} (h : checkChannel ch s = .ok c) (duty : Int) :
    exec (.enc ch duty) s = .next (encodedResponse c duty s) := by
  rw [exec, execEnc, h]

theorem exec_dec_of_check_error {e : Err} (h : checkChannel ch s = .error e) (raw : Nat) :
    exec (.dec ch raw) s = .next (raise e 0 Config.dutySentinel s) := by
  rw [exec, execDec, h]

theorem exec_dec_of_check_ok {c : CalEntry} (h : checkChannel ch s = .ok c) (raw : Nat) :
    exec (.dec ch raw) s = .next (decodedResponse c raw s) := by
  rw [exec, execDec, h]

end

/-- What a completed ENC or SET writes, field by field (R89, R95). -/
theorem encodedResponse_eq_respond {s : State} (h : s.initd = true) (c : CalEntry) (duty : Int) :
    encodedResponse c duty s = s.respond (encodedRsp c duty) := by
  rw [encodedResponse, h]
  rfl

/-- What a completed DEC or GET writes, field by field (R90, R96). -/
theorem decodedResponse_eq_respond {s : State} (h : s.initd = true) (c : CalEntry) (raw : Nat) :
    decodedResponse c raw s = s.respond (decodedRsp c raw) := by
  rw [decodedResponse, h]
  rfl

/-- What an illegal word writes, field by field (R54, R115). -/
theorem runWord_of_decode_illegal {w : CommandWord} (h : ∃ why, decode w = .illegal why) (s : State) :
    runWord w s = .next { s with rsp := errorRsp .illegalCommand s.initd 0 0 } := by
  obtain ⟨why, hd⟩ := h
  rw [runWord_illegal hd, raise_eq_errorRsp]

/-- Settles O33: each cause has its one way to end, and a word with ENC's operation code is ENC or illegal by field `B`. -/
theorem encResponds : Obligations.EncResponds := by
  intro ch duty s
  refine ⟨fun hi => ?_, fun hi hch => ?_, fun hi c hentry => ?_, fun w hopc hrsv hb => ?_, fun w hopc hb => ?_⟩
  · rw [exec_enc_of_check_error (checkChannel_of_not_initd hi), raise_eq_errorRsp, hi]
  · rw [exec_enc_of_check_error (checkChannel_of_bad_channel hi hch), raise_eq_errorRsp, hi]
  · rw [exec_enc_of_check_ok (checkChannel_ok_iff.mpr ⟨hi, hentry⟩), encodedResponse_eq_respond hi]
    rfl
  · exact decode_of_matchesWord ((matchesWord_row_iff (.enc 0 0) w).mpr ⟨hopc, hrsv, hb⟩)
  · exact runWord_of_decode_illegal ((decode_illegal_iff w).mpr (.inr (.inr (.inr (.inl ⟨.inl hopc, hb⟩))))) s

/-- Settles O34: each cause has its one way to end, and a word with DEC's operation code is DEC or illegal by field `A`. -/
theorem decResponds : Obligations.DecResponds := by
  intro ch raw s
  refine ⟨fun hi => ?_, fun hi hch => ?_, fun hi c hentry => ?_, fun w hopc hrsv ha => ?_, fun w hopc ha => ?_⟩
  · rw [exec_dec_of_check_error (checkChannel_of_not_initd hi), raise_eq_errorRsp, hi]
    rfl
  · rw [exec_dec_of_check_error (checkChannel_of_bad_channel hi hch), raise_eq_errorRsp, hi]
    rfl
  · rw [exec_dec_of_check_ok (checkChannel_ok_iff.mpr ⟨hi, hentry⟩), decodedResponse_eq_respond hi]
    rfl
  · exact decode_of_matchesWord ((matchesWord_row_iff (.dec 0 0) w).mpr ⟨hopc, hrsv, ha⟩)
  · exact runWord_of_decode_illegal ((decode_illegal_iff w).mpr (.inr (.inr (.inr (.inr (.inl ⟨hopc, ha⟩)))))) s

/-! What ENC and DEC read (R91). -/

theorem checkChannel_congr {ch : Nat} {s s' : State} (hi : s.initd = s'.initd) (he : s.entry ch = s'.entry ch) :
    checkChannel ch s = checkChannel ch s' := by
  rw [checkChannel, checkChannel, hi, he]

/-- Settles O35: the check reads `INITD` and the entry, and each way to end writes what it gives and `INITD`. -/
theorem codecCommandsArePure : Obligations.CodecCommandsArePure := by
  rintro i s s' t hcodec hi hentry h
  rcases hcodec with ⟨ch, duty, rfl⟩ | ⟨ch, raw, rfl⟩
  all_goals have hcheck := checkChannel_congr hi (hentry ch rfl)
  · rcases execEnc_cases h with ⟨e, hc, rfl⟩ | ⟨c, hc, rfl⟩
    · refine ⟨rfl, ?_⟩
      rw [exec_enc_of_check_error (hcheck ▸ hc), raise_rsp, hi]
      rfl
    · refine ⟨rfl, ?_⟩
      rw [exec_enc_of_check_ok (hcheck ▸ hc), encodedResponse_rsp, hi]
      rfl
  · rcases execDec_cases h with ⟨e, hc, rfl⟩ | ⟨c, hc, rfl⟩
    · refine ⟨rfl, ?_⟩
      rw [exec_dec_of_check_error (hcheck ▸ hc), raise_rsp, hi]
      rfl
    · refine ⟨rfl, ?_⟩
      rw [exec_dec_of_check_ok (hcheck ▸ hc), decodedResponse_rsp, hi]
      rfl

end Sys2Proof.Proofs
end

section
/-! PROOFS. The family 42_channel_ops.md: SET and GET refused by their checks, the three ways a command can end in a
transport failure, and from them the obligations O42 and O49. -/

namespace Sys2Proof.Proofs
open Sys2Proof.Machine Sys2Proof.Claims

/-! The checks before the bus (R100). -/

section
variable {ch : Nat} {s : State}

/-- The channel check refuses every command before INIT, and a channel of 16 or above. -/
theorem checkChannel_error_of_not_ready (h : s.initd = false ∨ 16 ≤ ch) :
    ∃ e, checkChannel ch s = .error e ∧ (e = .notInitialized ∨ e = .invalidChannel) := by
  cases hc : checkChannel ch s with
  | error e => exact ⟨e, rfl, (checkChannel_error_cases hc).imp And.right fun hbad => hbad.2.2⟩
  | ok c =>
    obtain ⟨hinit, hentry⟩ := checkChannel_ok_iff.mp hc
    exact h.elim (by simp [hinit]) fun hch => absurd (lt_of_entry hentry) hch.not_gt

theorem exec_set_of_check_error {e : Err} (h : checkChannel ch s = .error e) (duty : Int) :
    exec (.set ch duty) s = .next (raise e 0 0 s) := by
  rw [exec, execSet, h]

theorem exec_get_of_check_error {e : Err} (h : checkChannel ch s = .error e) :
    exec (.get ch) s = .next (raise e 0 Config.dutySentinel s) := by
  rw [exec, execGet, h]

end

/-- Settles O42: a failed check and an illegal word raise their error over the state as it was. -/
theorem checksComeBeforeBus : Obligations.ChecksComeBeforeBus := by
  refine ⟨?_, fun w why s hw => ⟨_, runWord_illegal hw s, rfl, rfl, fun _ => rfl⟩⟩
  rintro i s (⟨ch, duty, rfl, hready⟩ | ⟨ch, rfl, hready⟩)
  · obtain ⟨e, hc, he⟩ := checkChannel_error_of_not_ready hready
    exact ⟨_, exec_set_of_check_error hc duty, he, rfl, fun _ => rfl, rfl⟩
  · obtain ⟨e, hc, he⟩ := checkChannel_error_of_not_ready hready
    exact ⟨_, exec_get_of_check_error hc, he, rfl, fun _ => rfl, rfl⟩

/-! What a transaction leaves unchanged in the calibration table. -/

theorem memWrite_cal {a : Byte} {p : Payload} {s t : State} {r : WriteReply} (h : memWrite a p s = some (r, t)) :
    t.cal = s.cal := by
  obtain ⟨-, rfl⟩ := memWrite_some h
  rfl

theorem memRead_cal {a : Byte} {s t : State} {r : ReadReply} (h : memRead a s = some (r, t)) : t.cal = s.cal := by
  obtain ⟨-, rfl⟩ := memRead_some h
  rfl

/-! The transport failures (R101, R113). -/

/-- The three ways a command run from `s` ends in `TransportFailure`: the write of a SET failed, or the first read of a GET,
or the second after a good first one. -/
inductive FailsTransport (s : State) : Instr → State → Prop
  | write {ch : Nat} {duty : Int} {c : CalEntry} {code : Byte} {landed : BitVec 4} {u : State}
      (hcheck : checkChannel ch s = .ok c)
      (hwrite : memWrite c.base (c.encodeDuty duty).payload s = some (.fail code landed, u)) :
      FailsTransport s (.set ch duty) (raise .transportFailure code 0 u)
  | firstRead {ch : Nat} {c : CalEntry} {code : Byte} {u : State} (hcheck : checkChannel ch s = .ok c)
      (hread : memRead c.base s = some (.fail code, u)) :
      FailsTransport s (.get ch) (raise .transportFailure code Config.dutySentinel u)
  | secondRead {ch : Nat} {c : CalEntry} {lo code : Byte} {u v : State} (hcheck : checkChannel ch s = .ok c)
      (hlow : memRead c.base s = some (.byte lo, u)) (hhigh : memRead (c.base + 1) u = some (.fail code, v)) :
      FailsTransport s (.get ch) (raise .transportFailure code Config.dutySentinel v)

/-- A command that reports `TransportFailure` ended in one of the three ways. -/
theorem failsTransport_of_exec {i : Instr} {s t : State} (h : exec i s = .next t)
    (herr : t.rsp.err = .transportFailure) : FailsTransport s i t := by
  cases i with
  | init => cases h; cases herr
  | cfg ch off scale =>
    rcases execCfg_cases h with ⟨e, hc, rfl⟩ | ⟨c, -, -, rfl⟩ | ⟨c, -, -, rfl⟩
    · exact absurd herr (checkChannel_error_ne hc).2
    · cases herr
    · cases herr
  | enc ch duty =>
    rcases execEnc_cases h with ⟨e, hc, rfl⟩ | ⟨c, -, rfl⟩
    · exact absurd herr (checkChannel_error_ne hc).2
    · cases herr
  | dec ch raw =>
    rcases execDec_cases h with ⟨e, hc, rfl⟩ | ⟨c, -, rfl⟩
    · exact absurd herr (checkChannel_error_ne hc).2
    · cases herr
  | set ch duty =>
    rcases execSet_cases h with ⟨e, hc, rfl⟩ | ⟨c, code, landed, u, hc, hw, rfl⟩ | ⟨c, u, -, -, rfl⟩
    · exact absurd herr (checkChannel_error_ne hc).2
    · exact .write hc hw
    · cases herr
  | get ch =>
    rcases execGet_cases h with ⟨e, hc, rfl⟩ | ⟨c, code, u, hc, hr, rfl⟩ | ⟨c, lo, code, u, v, hc, hr, hr', rfl⟩ |
      ⟨c, lo, hi, u, v, -, -, -, rfl⟩
    · exact absurd herr (checkChannel_error_ne hc).2
    · exact .firstRead hc hr
    · exact .secondRead hc hr hr'
    · cases herr

section
variable {i : Instr} {s t : State}

theorem FailsTransport.ne_init (h : FailsTransport s i t) : i ≠ .init := by
  cases h <;> nofun

theorem FailsTransport.cal_eq (h : FailsTransport s i t) : t.cal = s.cal := by
  cases h with
  | write _ hwrite => rw [raise_cal, memWrite_cal hwrite]
  | firstRead _ hread => rw [raise_cal, memRead_cal hread]
  | secondRead _ hlow hhigh => rw [raise_cal, memRead_cal hhigh, memRead_cal hlow]

/-- No transaction was made twice: the only two that one command makes name neighbouring registers. -/
theorem FailsTransport.bus_nodup (h : FailsTransport s i t) :
    ∃ xs, t.bus = s.bus ++ xs ∧ (xs.map fun x => x.addr).Nodup ∧ xs.length ≤ 2 := by
  cases h with
  | write _ hwrite =>
    have hbus := memWrite_bus hwrite
    exact ⟨_, hbus, List.nodup_singleton _, Nat.le_succ 1⟩
  | firstRead _ hread =>
    have hbus := memRead_bus hread
    exact ⟨_, hbus, List.nodup_singleton _, Nat.le_succ 1⟩
  | secondRead _ hlow hhigh =>
    have hbus := memRead_memRead_bus hlow hhigh
    exact ⟨_, hbus, by simp, le_rfl⟩

end

/-- Settles O49, by the three ways to fail; no command reads the response the failure wrote. -/
theorem noRetryAfterFailure : Obligations.NoRetryAfterFailure := by
  intro i s t h herr
  have hfail := failsTransport_of_exec h herr
  exact ⟨hfail.cal_eq, (responds_of_exec h).initd_eq hfail.ne_init, hfail.bus_nodup,
    fun j => (exec_respond j t s.rsp).symm⟩

end Sys2Proof.Proofs
end

section
/-! PROOFS. The family 60_exceptions.md: a failed channel check ends every command alike, an error before the bus writes the
response only, a failed transaction is the last of its command, and from them the obligations O43, O44, O45 and O48. -/

namespace Sys2Proof.Proofs
open Sys2Proof.Machine Sys2Proof.Claims

/-! The order of the causes (R117). -/

/-- A failed channel check ends every command that takes a channel, whatever its other operands. -/
theorem exec_of_check_error {i : Instr} {s : State} {ch : Nat} {e : Err} (hch : channel? i = some ch)
    (h : checkChannel ch s = .error e) : exec i s = .next (raise e 0 (failDuty i) s) := by
  cases i with
  | init => cases hch
  | cfg k off S => cases hch; exact exec_cfg_of_check_error h off S
  | enc k duty => cases hch; exact exec_enc_of_check_error h duty
  | dec k raw => cases hch; exact exec_dec_of_check_error h raw
  | set k duty => cases hch; exact exec_set_of_check_error h duty
  | get k => cases hch; exact exec_get_of_check_error h

/-- A channel that passes the check is one of the 16, in a block that is initialised. -/
theorem ready_of_checkChannel {ch : Nat} {s : State} {c : CalEntry} (h : checkChannel ch s = .ok c) :
    s.initd = true ∧ ch < 16 := by
  obtain ⟨hinit, hentry⟩ := checkChannel_ok_iff.mp h
  exact ⟨hinit, lt_of_entry hentry⟩

/-- Only a SET or a GET that passed its checks ends in `TransportFailure`. -/
theorem FailsTransport.checked {i : Instr} {s t : State} (h : FailsTransport s i t) :
    s.initd = true ∧ ((∃ ch duty, i = .set ch duty ∧ ch < 16) ∨ (∃ ch, i = .get ch ∧ ch < 16)) := by
  cases h with
  | write hcheck => exact (ready_of_checkChannel hcheck).imp_right fun hch => .inl ⟨_, _, rfl, hch⟩
  | firstRead hcheck => exact (ready_of_checkChannel hcheck).imp_right fun hch => .inr ⟨_, rfl, hch⟩
  | secondRead hcheck => exact (ready_of_checkChannel hcheck).imp_right fun hch => .inr ⟨_, rfl, hch⟩

/-- Settles O43: each cause's way to end assumes that the causes before it do not hold. -/
theorem firstCauseIsReported : Obligations.FirstCauseIsReported := by
  refine ⟨fun w why s hw => ⟨_, runWord_illegal hw s, rfl⟩, fun w i s hw => by rw [runWord, hw],
    fun i s hi hs => ⟨_, exec_of_not_initd hi hs, rfl⟩, fun i s ch hs hch hbad => ?_, fun ch off s hs hlt => ?_,
    fun i s t h herr => (failsTransport_of_exec h herr).checked⟩
  · exact ⟨_, exec_of_check_error hch (checkChannel_of_bad_channel hs hbad), rfl⟩
  · exact ⟨_, exec_cfg_of_zero_scale (checkChannel_ok_iff.mpr ⟨hs, entry_of_lt s hlt⟩) off, rfl⟩

/-! The earlier response (R119). -/

theorem runWord_respond (w : CommandWord) (s : State) (r : Rsp) : runWord w (s.respond r) = runWord w s := by
  cases hd : decode w with
  | command i => rw [runWord, runWord, hd]; exact exec_respond i s r
  | illegal why => rw [runWord_illegal hd, runWord_illegal hd]; rfl

/-- Settles O45: no command reads the response, and an illegal word overwrites it whole. -/
theorem earlierResponseIsNeverRead : Obligations.EarlierResponseIsNeverRead :=
  ⟨exec_respond, runWord_respond⟩

/-! Which transactions failed, and with which code (R35). -/

@[simp] theorem failedWith_write_iff (m : Master) (dev : Nat) (a : Byte) (bytes : List Byte) (failure : Option Byte)
    (code : Byte) : failedWith ⟨m, dev, a, .write bytes failure⟩ code ↔ failure = some code := by
  simp [failedWith]

@[simp] theorem failedWith_read_iff (m : Master) (dev : Nat) (a : Byte) (r : ReadReply) (code : Byte) :
    failedWith ⟨m, dev, a, .read r⟩ code ↔ r = .fail code := by
  simp [failedWith]

/-- A transaction fails with one code. -/
theorem failedWith_unique {x : Transaction} {code code' : Byte} (h : failedWith x code) (h' : failedWith x code') :
    code = code' := by
  obtain ⟨m, dev, a, ⟨bytes, failure⟩ | r⟩ := x
  · rw [failedWith_write_iff] at h h'
    exact Option.some.inj (h.symm.trans h')
  · rw [failedWith_read_iff] at h h'
    exact ReadReply.fail.inj (h.symm.trans h')

/-- No transaction of the list failed. -/
def NoneFailed (xs : List Transaction) : Prop := ∀ x ∈ xs, ∀ code, ¬ failedWith x code

@[simp] theorem noneFailed_nil : NoneFailed [] := nofun

@[simp] theorem noneFailed_cons_iff (x : Transaction) (xs : List Transaction) :
    NoneFailed (x :: xs) ↔ (∀ code, ¬ failedWith x code) ∧ NoneFailed xs :=
  List.forall_mem_cons

/-- The transactions of a command that ends in `TransportFailure`: the last one failed with the code in `TERR`, and none
before it did. -/
theorem FailsTransport.bus_last_failed {i : Instr} {s t : State} (h : FailsTransport s i t) :
    ∃ xs x, t.bus = s.bus ++ (xs ++ [x]) ∧ failedWith x t.rsp.terr ∧ NoneFailed xs := by
  cases h with
  | write _ hwrite =>
    have hbus := memWrite_bus hwrite
    exact ⟨[], _, hbus, (failedWith_write_iff ..).mpr rfl, noneFailed_nil⟩
  | firstRead _ hread =>
    have hbus := memRead_bus hread
    exact ⟨[], _, hbus, (failedWith_read_iff ..).mpr rfl, noneFailed_nil⟩
  | secondRead _ hlow hhigh =>
    have hbus := memRead_memRead_bus hlow hhigh
    exact ⟨[_], _, hbus, (failedWith_read_iff ..).mpr rfl, by simp⟩

/-- The transactions of a command that ends in anything but `TransportFailure` were all answered well. -/
theorem bus_noneFailed_of_exec {i : Instr} {s t : State} (h : exec i s = .next t)
    (herr : t.rsp.err ≠ .transportFailure) : ∃ xs, t.bus = s.bus ++ xs ∧ NoneFailed xs := by
  by_cases hok : t.rsp.err = .ok
  · cases i with
    | set ch duty =>
      rcases execSet_cases h with ⟨e, hc, rfl⟩ | ⟨c, code, landed, u, -, -, rfl⟩ | ⟨c, u, -, hw, rfl⟩
      · exact absurd hok (checkChannel_error_ne hc).1
      · exact absurd rfl herr
      · have hbus := memWrite_bus hw
        exact ⟨_, hbus, by simp [WriteReply.failure]⟩
    | get ch =>
      rcases execGet_bus_cases h with ⟨⟨hne, -⟩, -⟩ | ⟨-, c, lo, hi, -, hbus⟩ | ⟨hfail, -⟩
      · exact absurd hok hne
      · exact ⟨_, hbus, by simp⟩
      · exact absurd hfail herr
    | init | cfg | enc | dec =>
      exact ⟨[], (exec_bus_of_not_set_get h nofun nofun).trans (List.append_nil _).symm, noneFailed_nil⟩
  · exact ⟨[], (exec_bus_of_refused h hok herr).trans (List.append_nil _).symm, noneFailed_nil⟩

/-- Settles O48: a command that reports the failure ends with its one failed transaction, any other command has none. -/
theorem transportFailureIsPassedOn : Obligations.TransportFailureIsPassedOn := by
  intro i s t h
  by_cases herr : t.rsp.err = .transportFailure
  · obtain ⟨xs, x, hbus, hx, hxs⟩ := (failsTransport_of_exec h herr).bus_last_failed
    refine ⟨xs ++ [x], hbus, ⟨fun _ => ⟨x, _, List.mem_concat_self, hx⟩, fun _ => herr⟩,
      fun y code hy hfail => ?_, fun y code hy => ?_⟩
    · rcases List.mem_append.mp hy with hearlier | hlast
      · exact absurd hfail (hxs y hearlier code)
      · rw [List.mem_singleton.mp hlast] at hfail ⊢
        exact ⟨failedWith_unique hx hfail, List.getLast?_concat⟩
    · rw [List.dropLast_concat] at hy
      exact hxs y hy code
  · obtain ⟨xs, hbus, hnone⟩ := bus_noneFailed_of_exec h herr
    exact ⟨xs, hbus, ⟨fun hfail => absurd hfail herr, fun ⟨x, code, hx, hfail⟩ => absurd hfail (hnone x hx code)⟩,
      fun x code hx hfail => absurd hfail (hnone x hx code), fun x code hx => hnone x (List.mem_of_mem_dropLast hx) code⟩

/-! What an error writes (R118). -/

/-- The whole response of a command that ends in an error. -/
theorem Responds.rsp_of_error {i : Instr} {s t : State} (h : Responds i s t) (herr : t.rsp.err ≠ .ok) :
    t.rsp = errorRsp t.rsp.err s.initd t.rsp.terr (failDuty i) := by
  cases h with
  | raised _ _ hinitd => rw [← hinitd]; rfl
  | acknowledged => exact absurd rfl herr
  | encoded => exact absurd rfl herr
  | decoded => exact absurd rfl herr

/-- An error other than `TransportFailure` is raised over the state as the command found it. -/
theorem raise_of_exec_refused {i : Instr} {s t : State} (h : exec i s = .next t) (hok : t.rsp.err ≠ .ok)
    (hfail : t.rsp.err ≠ .transportFailure) : ∃ e, t = raise e 0 (failDuty i) s := by
  cases i with
  | init => cases h; exact absurd rfl hok
  | cfg ch off S =>
    rcases execCfg_cases h with ⟨e, -, rfl⟩ | ⟨c, -, -, rfl⟩ | ⟨c, -, -, rfl⟩
    · exact ⟨e, rfl⟩
    · exact ⟨.configError, rfl⟩
    · exact absurd rfl hok
  | enc ch duty =>
    rcases execEnc_cases h with ⟨e, -, rfl⟩ | ⟨c, -, rfl⟩
    · exact ⟨e, rfl⟩
    · exact absurd rfl hok
  | dec ch raw =>
    rcases execDec_cases h with ⟨e, -, rfl⟩ | ⟨c, -, rfl⟩
    · exact ⟨e, rfl⟩
    · exact absurd rfl hok
  | set ch duty =>
    rcases execSet_cases h with ⟨e, -, rfl⟩ | ⟨c, code, landed, u, -, -, rfl⟩ | ⟨c, u, -, -, rfl⟩
    · exact ⟨e, rfl⟩
    · exact absurd rfl hfail
    · exact absurd rfl hok
  | get ch =>
    rcases execGet_cases h with ⟨e, -, rfl⟩ | ⟨c, code, u, -, -, rfl⟩ | ⟨c, lo, code, u, v, -, -, -, rfl⟩ |
      ⟨c, lo, hi, u, v, -, -, -, rfl⟩
    · exact ⟨e, rfl⟩
    · exact absurd rfl hfail
    · exact absurd rfl hfail
    · exact absurd rfl hok

/-! A transaction of the encoder takes no move of the host. -/

theorem memWrite_host {a : Byte} {p : Payload} {s t : State} {r : WriteReply} (h : memWrite a p s = some (r, t)) :
    t.host = s.host := by
  obtain ⟨-, rfl⟩ := memWrite_some h
  rfl

theorem memRead_host {a : Byte} {s t : State} {r : ReadReply} (h : memRead a s = some (r, t)) : t.host = s.host := by
  obtain ⟨-, rfl⟩ := memRead_some h
  rfl

theorem FailsTransport.host_eq {i : Instr} {s t : State} (h : FailsTransport s i t) : t.host = s.host := by
  cases h with
  | write _ hwrite => rw [raise_host, memWrite_host hwrite]
  | firstRead _ hread => rw [raise_host, memRead_host hread]
  | secondRead _ hlow hhigh => rw [raise_host, memRead_host hhigh, memRead_host hlow]

/-- Settles O44: the response is the error's alone, and what else changed is what a failed transaction did at the target. -/
theorem errorWritesOnlyResponse : Obligations.ErrorWritesOnlyResponse := by
  refine ⟨fun i s t h hok => ⟨(responds_of_exec h).rsp_of_error hok, ?_⟩,
    fun w why s hw => runWord_of_decode_illegal ⟨why, hw⟩ s⟩
  by_cases herr : t.rsp.err = .transportFailure
  · have hfail := failsTransport_of_exec h herr
    obtain ⟨xs, x, hbus, hx, -⟩ := hfail.bus_last_failed
    exact ⟨fun hne => absurd herr hne, fun _ => ⟨xs, x, hbus.trans (List.append_assoc ..).symm, hx⟩, hfail.cal_eq,
      (responds_of_exec h).initd_eq hfail.ne_init, hfail.host_eq⟩
  · obtain ⟨e, rfl⟩ := raise_of_exec_refused h hok herr
    exact ⟨fun _ => ⟨rfl, rfl⟩, fun hfail => absurd hfail herr, rfl, rfl, rfl⟩

end Sys2Proof.Proofs
end

section
/-! PROOFS. The family 30_encoding.md again: the decoder and the encoder are inverse to each other on the words of commands,
and from it the obligations O1, O2 and O5, and O57 on the command that a step runs. -/

namespace Sys2Proof.Proofs
open Sys2Proof.Machine Sys2Proof.Claims

theorem operationCode_encode (i : Instr) : Laws.OperationCode.Statement i := by
  cases i with
  | init => exact Laws.OperationCode.init
  | cfg ch off S => exact Laws.OperationCode.cfg ch off S
  | enc ch duty => exact Laws.OperationCode.enc ch duty
  | dec ch raw => exact Laws.OperationCode.dec ch raw
  | set ch duty => exact Laws.OperationCode.set ch duty
  | get ch => exact Laws.OperationCode.get ch

theorem zeroFields_encode (i : Instr) : ZeroFields (encode i) i := by
  cases i <;> simp [ZeroFields, encode]

theorem matchesWord_encode (i : Instr) : i.row.matchesWord (encode i) = true :=
  (matchesWord_row_iff i _).mpr ⟨(operationCode_encode i).1, (operationCode_encode i).2, zeroFields_encode i⟩

/-- Operands that fit their fields are read back as they were (R51). -/
theorem readAs_encode {i : Instr} (h : i.wellFormed = true) : readAs (encode i) i = i := by
  cases i with
  | init => rfl
  | cfg ch off S =>
    simp only [Instr.wellFormed, Bool.and_eq_true] at h
    obtain ⟨⟨hch, hoff⟩, hS⟩ := h
    simp [readAs, encode, ofNat8_toNat hch, ofInt16_toInt hoff, ofNat16_toNat hS]
  | enc ch duty | set ch duty =>
    obtain ⟨hch, hduty⟩ := Bool.and_eq_true_iff.mp h
    simp [readAs, encode, ofNat8_toNat hch, ofInt16_toInt hduty]
  | dec ch raw =>
    obtain ⟨hch, hraw⟩ := Bool.and_eq_true_iff.mp h
    simp [readAs, encode, ofNat8_toNat hch, ofNat16_toNat hraw]
  | get ch => simp [readAs, encode, ofNat8_toNat h]

/-- Settles O1: a command's word matches the command's row, and its operands are read back from their fields. -/
theorem decodeOfEncodeGivesCommandBack : Obligations.DecodeOfEncodeGivesCommandBack := by
  intro i h
  rw [decode_of_matchesWord (matchesWord_encode i), readAs_encode h]

/-- A word that matches a command's row is the encoding of what is read from it. -/
theorem encode_readAs {i : Instr} {w : CommandWord} (h : i.row.matchesWord w = true) : encode (readAs w i) = w := by
  obtain ⟨hopc, hrsv, hzero⟩ := (matchesWord_row_iff i w).mp h
  conv_rhs => rw [← packCommand_fields w, hopc, hrsv]
  cases i <;> simp only [ZeroFields] at hzero <;> simp [encode, readAs, Laws.OperationCode.codeOf, hzero]

theorem channelFits_toNat (b : Byte) : channelFits b.toNat = true := decide_eq_true b.isLt

theorem unsignedFits_toNat (h : Half) : unsignedFits h.toNat = true := decide_eq_true h.isLt

theorem signedFits_toInt (h : Half) : signedFits h.toInt = true := by
  have hlow := h.le_toInt
  have hhigh := h.toInt_lt
  simp only [signedFits, Bool.and_eq_true, decide_eq_true_eq]
  omega

/-- What a field holds fits the field (R51). -/
theorem wellFormed_readAs (w : CommandWord) (i : Instr) : (readAs w i).wellFormed = true := by
  cases i <;> simp [readAs, Instr.wellFormed, channelFits_toNat, unsignedFits_toNat, signedFits_toInt]

/-- Settles O2: what the decoder answers is what it read from the fields. -/
theorem encodeOfDecodeGivesWordBack : Obligations.EncodeOfDecodeGivesWordBack := by
  intro w i h
  have hrow : i.row.matchesWord w = true := matchesWord_of_decode h
  have hread : readAs w i = i := Decoded.command.inj ((decode_of_matchesWord hrow).symm.trans h)
  rw [← hread]
  exact ⟨hread.symm ▸ encode_readAs hrow, wellFormed_readAs w i⟩

/-- Settles O5, by computing the decoder on each word. -/
theorem exampleWordsDecode : Obligations.ExampleWordsDecode := by
  unfold Obligations.ExampleWordsDecode
  decide

theorem runWord_of_decode {w : CommandWord} {i : Instr} (h : decode w = .command i) (s : State) : runWord w s = exec i s := by
  rw [runWord, h]

/-- A host that presents a well-formed command has it executed. -/
theorem issue_eq_exec {i : Instr} (h : i.wellFormed = true) (s : State) : issue i s = exec i s :=
  runWord_of_decode (decodeOfEncodeGivesCommandBack i h) s

/-- Settles O57: the step takes the host's next move and runs its word. -/
theorem stepRunsPresentedCommand : Obligations.StepRunsPresentedCommand :=
  ⟨fun _ _ _ _ hhost hd => (step_move hhost).trans (runWord_of_decode hd _), fun s _ h => issue_eq_exec h s,
    fun _ => step_idle⟩

end Sys2Proof.Proofs
end

section
/-! PROOFS. What every step keeps: the frame of each command, the response record, the table, the registers and the bus record
of a legal state, and from them the obligations O8 to O10, O39 and O51. -/

namespace Sys2Proof.Proofs
open Sys2Proof.Machine Sys2Proof.Claims

/-! The frame of each command: the fields it can change (R10, R21, R36). -/

theorem memRead_frame {a : Byte} {s t : State} {r : ReadReply} (h : memRead a s = some (r, t)) :
    t = { s with readAnswers := t.readAnswers, bus := t.bus, draw := t.draw } := by
  obtain ⟨-, rfl⟩ := memRead_some h
  rfl

theorem memWrite_frame {a : Byte} {p : Payload} {s t : State} {r : WriteReply} (h : memWrite a p s = some (r, t)) :
    t = { s with
      cells := t.cells, cellsDraw := t.cellsDraw, writeAnswers := t.writeAnswers, bus := t.bus, draw := t.draw } := by
  obtain ⟨-, rfl⟩ := memWrite_some h
  rfl

/-- INIT, CFG, ENC and DEC change the block and nothing else. -/
theorem exec_frame_of_not_set_get {i : Instr} {s t : State} (h : exec i s = .next t)
    (hset : ∀ ch duty, i ≠ .set ch duty) (hget : ∀ ch, i ≠ .get ch) :
    t = { s with cal := t.cal, initd := t.initd, rsp := t.rsp } := by
  cases i with
  | init => cases h; rfl
  | cfg ch off S => rcases execCfg_cases h with ⟨e, -, rfl⟩ | ⟨c, -, -, rfl⟩ | ⟨c, -, -, rfl⟩ <;> rfl
  | enc ch duty => rcases execEnc_cases h with ⟨e, -, rfl⟩ | ⟨c, -, rfl⟩ <;> rfl
  | dec ch raw => rcases execDec_cases h with ⟨e, -, rfl⟩ | ⟨c, -, rfl⟩ <;> rfl
  | set ch duty => exact absurd rfl (hset ch duty)
  | get ch => exact absurd rfl (hget ch)

/-- GET changes the response, and what its reads use up. -/
theorem execGet_frame {ch : Nat} {s t : State} (h : execGet ch s = .next t) :
    t = { s with rsp := t.rsp, readAnswers := t.readAnswers, bus := t.bus, draw := t.draw } := by
  rcases execGet_cases h with ⟨e, -, rfl⟩ | ⟨c, code, u, -, hr, rfl⟩ | ⟨c, lo, code, u, v, -, hr, hr', rfl⟩ |
    ⟨c, lo, hi, u, v, -, hr, hr', rfl⟩
  · rfl
  · rw [memRead_frame hr]; rfl
  · rw [memRead_frame hr', memRead_frame hr]; rfl
  · rw [memRead_frame hr', memRead_frame hr]; rfl

/-- SET changes the response, the target's registers, and what its write uses up. -/
theorem execSet_frame {ch : Nat} {duty : Int} {s t : State} (h : execSet ch duty s = .next t) :
    t = { s with
      rsp := t.rsp, cells := t.cells, cellsDraw := t.cellsDraw, writeAnswers := t.writeAnswers, bus := t.bus
      draw := t.draw } := by
  rcases execSet_cases h with ⟨e, -, rfl⟩ | ⟨c, code, landed, u, -, hw, rfl⟩ | ⟨c, u, -, hw, rfl⟩
  · rfl
  · rw [memWrite_frame hw]; rfl
  · rw [memWrite_frame hw]; rfl

/-- Only SET reaches the target's registers. -/
theorem exec_frame_of_not_set {i : Instr} {s t : State} (h : exec i s = .next t) (hset : ∀ ch duty, i ≠ .set ch duty) :
    t = { s with
      cal := t.cal, initd := t.initd, rsp := t.rsp, readAnswers := t.readAnswers, bus := t.bus, draw := t.draw } := by
  cases i with
  | set ch duty => exact absurd rfl (hset ch duty)
  | get ch => rw [execGet_frame h]
  | init | cfg | enc | dec => rw [exec_frame_of_not_set_get h nofun nofun]

/-- Only INIT and CFG write the calibration table (R10). -/
theorem exec_cal_eq {i : Instr} {s t : State} (h : exec i s = .next t) (hinit : i ≠ .init)
    (hcfg : ∀ ch off S, i ≠ .cfg ch off S) : t.cal = s.cal := by
  cases i with
  | init => exact absurd rfl hinit
  | cfg ch off S => exact absurd rfl (hcfg ch off S)
  | enc ch duty => rcases execEnc_cases h with ⟨e, -, rfl⟩ | ⟨c, -, rfl⟩ <;> rfl
  | dec ch raw => rcases execDec_cases h with ⟨e, -, rfl⟩ | ⟨c, -, rfl⟩ <;> rfl
  | set ch duty => rw [execSet_frame h]
  | get ch => rw [execGet_frame h]

/-- Settles O39, by the frames of the commands; `INITD` and the table are kept by all but INIT, and INIT and CFG. -/
theorem nonStoringCommandsFrame : Obligations.NonStoringCommandsFrame := by
  intro i s t hset h
  have hframe := exec_frame_of_not_set h hset
  have hcells : t.cells = s.cells := by rw [hframe]
  have hdraw : t.cellsDraw = s.cellsDraw := by rw [hframe]
  refine ⟨fun a => by rw [hcells], fun a => content_congr (by rw [hcells]) hdraw, hdraw, by rw [hframe], by rw [hframe],
    by rw [hframe], by rw [hframe], fun hget => ?_,
    fun hinit => ⟨(responds_of_exec h).initd_eq hinit, fun hcfg => entry_congr (exec_cal_eq h hinit hcfg)⟩⟩
  have hblock := exec_frame_of_not_set_get h hset hget
  exact ⟨by rw [hblock], by rw [hblock], by rw [hblock]⟩

/-! The response record (R17 to R19). -/

/-- A response without a payload is legal if only an error carries a code or the sentinel. -/
theorem Rsp.legal_of_no_payload {e : Err} {terr : Byte} {duty : DutyWord} (b : Bool)
    (hterr : e ≠ .transportFailure → terr = 0) (hduty : e ≠ .ok → duty = 0 ∨ duty = Config.dutySentinel) :
    ({ Rsp.blank b with err := e, terr, duty } : Rsp).Legal where
  terr_only_on_failure := hterr
  error_carries_no_result := fun he => ⟨rfl, rfl, hduty he⟩
  error_clears_flags := fun _ => ⟨rfl, rfl, rfl, rfl⟩
  override_flags_copy_payload := (by decide : false = foffFlag Payload.zero ∧ false = fonFlag Payload.zero)
  never_both_overrides := by simp [Rsp.blank]
  diagnostics_interior_only := fun _ => ⟨rfl, rfl⟩
  reserved_bits_zero := (by decide : (0 : Byte).extractLsb' 5 3 = 0 ∧ (0 : Byte).extractLsb' 5 3 = 0)
  addr_is_base := .inl rfl

theorem failDuty_eq (i : Instr) : failDuty i = 0 ∨ failDuty i = Config.dutySentinel := by
  unfold failDuty
  split
  · exact .inr rfl
  · exact .inl rfl

/-- An override payload has no diagnostic flag (R77). -/
theorem codecEncode_flags_of_override {duty off : Int} {S : Nat} (h : classOf duty S ≠ .interior) :
    (codecEncode duty off S).ovf = false ∧ (codecEncode duty off S).eq = false := by
  cases hc : classOf duty S with
  | fullOff => rw [codecEncode_fullOff off hc]; exact ⟨rfl, rfl⟩
  | fullOn => rw [codecEncode_fullOn off hc]; exact ⟨rfl, rfl⟩
  | interior => exact absurd hc h

/-- Bits [7:5] of both high bytes are 0 (R61). -/
theorem codecEncode_high_bytes (duty off : Int) (S : Nat) :
    (codecEncode duty off S).payload.onHi.toNat < 32 ∧ (codecEncode duty off S).payload.offHi.toNat < 32 := by
  cases hc : classOf duty S with
  | fullOff => rw [codecEncode_fullOff off hc]; decide
  | fullOn => rw [codecEncode_fullOn off hc]; decide
  | interior =>
    rw [codecEncode_interior off hc]
    exact ⟨(highByte_pack12_lt _).trans (by norm_num), (highByte_pack12_lt _).trans (by norm_num)⟩

theorem byte_top_zero_of_lt {b : Byte} (h : b.toNat < 32) : b.extractLsb' 5 3 = 0 := by
  apply BitVec.eq_of_toNat_eq
  rw [BitVec.extractLsb'_toNat, Nat.shiftRight_eq_div_pow, Nat.div_eq_of_lt h]
  rfl

/-- The response of an ENC or SET is legal if the channel's base register is some channel's. -/
theorem encodedResponse_rsp_legal {c : CalEntry} (hbase : isBase c.base) (duty : Int) (s : State) :
    (encodedResponse c duty s).rsp.Legal where
  terr_only_on_failure := fun _ => rfl
  error_carries_no_result := absurd rfl
  error_clears_flags := absurd rfl
  override_flags_copy_payload := ⟨rfl, rfl⟩
  never_both_overrides := not_foffFlag_and_fonFlag_encodeDuty c duty
  diagnostics_interior_only := by
    intro hflag
    refine codecEncode_flags_of_override fun hc => ?_
    simp [CalEntry.encodeDuty, foffFlag_codecEncode, fonFlag_codecEncode, hc] at hflag
  reserved_bits_zero :=
    have hhigh := codecEncode_high_bytes duty c.offset c.scaleNat
    ⟨byte_top_zero_of_lt hhigh.1, byte_top_zero_of_lt hhigh.2⟩
  addr_is_base := .inr hbase

theorem Responds.rsp_legal {i : Instr} {s t : State} (h : Responds i s t)
    (hbase : ∀ ch c, checkChannel ch s = .ok c → isBase c.base) : t.rsp.Legal := by
  cases h with
  | raised _ hterr => exact Rsp.legal_of_no_payload _ hterr fun _ => failDuty_eq i
  | acknowledged => exact Rsp.legal_of_no_payload _ (fun _ => rfl) (absurd rfl)
  | encoded _ _ hcheck => exact encodedResponse_rsp_legal (hbase _ _ hcheck) _ _
  | decoded => exact Rsp.legal_of_no_payload _ (fun _ => rfl) (absurd rfl)

/-! The calibration table (R12, R13). -/

theorem calLegal_congr {s t : State} (hs : s.CalLegal) (hi : t.initd = s.initd) (hc : t.cal = s.cal) : t.CalLegal := by
  intro hinit ch c hentry
  exact hs (hi ▸ hinit) ch c ((entry_congr hc ch).symm.trans hentry)

/-- A channel that passes the check in a legal state has its own base register and a scale number other than 0. -/
theorem calLegal_of_checkChannel {s : State} {ch : Nat} {c : CalEntry} (hs : s.CalLegal) (h : checkChannel ch s = .ok c) :
    c.base = baseOf ch ∧ c.scale ≠ 0 := by
  obtain ⟨hinit, hentry⟩ := checkChannel_ok_iff.mp h
  exact hs hinit ch c hentry

theorem isBase_of_checkChannel {s : State} (hs : s.CalLegal) (ch : Nat) (c : CalEntry) (h : checkChannel ch s = .ok c) :
    isBase c.base :=
  ⟨ch, (ready_of_checkChannel h).2, (calLegal_of_checkChannel hs h).1⟩

theorem calLegal_of_default {s : State} (h : s.cal = tableOf CalEntry.default) : s.CalLegal := by
  intro _ ch c hentry
  rw [entry_of_table h (lt_of_entry hentry), Option.some.injEq] at hentry
  rw [← hentry]
  exact ⟨rfl, (by decide : Config.defaultScale ≠ 0)⟩

theorem calLegal_configure {s : State} {ch : Nat} {c : CalEntry} (hs : s.CalLegal) (h : checkChannel ch s = .ok c)
    (off : Half) {scale : Half} (hscale : scale ≠ 0) : (s.configure ch c off scale).CalLegal := by
  intro hinit k d hentry
  by_cases hk : k = ch
  · subst hk
    rw [entry_configure_same (ready_of_checkChannel h).2, Option.some.injEq] at hentry
    rw [← hentry]
    exact ⟨(calLegal_of_checkChannel hs h).1, hscale⟩
  · rw [entry_configure_other hk] at hentry
    exact hs hinit k d hentry

theorem exec_keeps_calLegal {i : Instr} {s t : State} (hs : s.CalLegal) (h : exec i s = .next t) : t.CalLegal := by
  cases i with
  | init => cases h; exact calLegal_of_default rfl
  | cfg ch off S =>
    rcases execCfg_cases h with ⟨e, -, rfl⟩ | ⟨c, -, -, rfl⟩ | ⟨c, hc, hscale, rfl⟩
    · exact hs
    · exact hs
    · exact calLegal_configure hs hc _ hscale
  | enc | dec | set | get => exact calLegal_congr hs ((responds_of_exec h).initd_eq nofun) (exec_cal_eq h nofun nofun)

/-! The target's registers (R30). -/

theorem base_add_four_le {a : Byte} (h : isBase a) : 6 ≤ a.toNat ∧ a.toNat + 4 ≤ 0x46 := by
  obtain ⟨k, hk, rfl⟩ := h
  have hk16 : k < 16 := hk
  rw [baseOf_toNat hk16]
  omega

theorem memWrite_cells_wf {a : Byte} {p : Payload} {s t : State} {r : WriteReply} (ha : isBase a)
    (hs : Memory.wf s.cells = true) (h : memWrite a p s = some (r, t)) : Memory.wf t.cells = true := by
  obtain ⟨-, rfl⟩ := memWrite_some h
  have hfits := (base_add_four_le ha).2
  unfold State.afterBurst
  split
  · exact land_wf hs (by rw [landed_length, payload_bytes_length]; omega)
  · rfl

theorem exec_keeps_cells_wf {i : Instr} {s t : State} (hs : s.Inv) (h : exec i s = .next t) :
    Memory.wf t.cells = true := by
  cases i with
  | set ch duty =>
    rcases execSet_cases h with ⟨e, -, rfl⟩ | ⟨c, code, landed, u, hc, hw, rfl⟩ | ⟨c, u, hc, hw, rfl⟩
    · exact hs.cells_wf
    · exact memWrite_cells_wf (t := u) (isBase_of_checkChannel hs.cal_legal ch c hc) hs.cells_wf hw
    · exact memWrite_cells_wf (t := u) (isBase_of_checkChannel hs.cal_legal ch c hc) hs.cells_wf hw
  | init | cfg | enc | dec | get =>
    rw [exec_frame_of_not_set h nofun]
    exact hs.cells_wf

/-! The record of the bus (R35, R36). -/

theorem burst_legal {a : Byte} (ha : isBase a) (p : Payload) (failure : Option Byte) :
    Transaction.Legal ⟨.encoder, Config.devAddr, a, .write p.bytes failure⟩ :=
  ⟨rfl, ha, rfl⟩

theorem lowRead_legal {a : Byte} (ha : isBase a) (r : ReadReply) :
    Transaction.Legal ⟨.encoder, Config.devAddr, a, .read r⟩ :=
  ⟨rfl, .inl ha⟩

theorem highRead_legal {a : Byte} (ha : isBase a) (r : ReadReply) :
    Transaction.Legal ⟨.encoder, Config.devAddr, a + 1, .read r⟩ :=
  ⟨rfl, .inr (by rwa [BitVec.add_sub_cancel])⟩

theorem memWrite_bus_legal {a : Byte} {p : Payload} {s t : State} {r : WriteReply} (ha : isBase a)
    (hs : ∀ x ∈ s.bus, x.Legal) (h : memWrite a p s = some (r, t)) : ∀ x ∈ t.bus, x.Legal := by
  rw [memWrite_bus h]
  exact List.forall_mem_append.mpr ⟨hs, List.forall_mem_singleton.mpr (burst_legal ha p r.failure)⟩

theorem memRead_bus_legal {a : Byte} {s t : State} {r : ReadReply} (hs : ∀ x ∈ s.bus, x.Legal)
    (ha : Transaction.Legal ⟨.encoder, Config.devAddr, a, .read r⟩) (h : memRead a s = some (r, t)) :
    ∀ x ∈ t.bus, x.Legal := by
  rw [memRead_bus h]
  exact List.forall_mem_append.mpr ⟨hs, List.forall_mem_singleton.mpr ha⟩

theorem exec_keeps_bus_legal {i : Instr} {s t : State} (hs : s.Inv) (h : exec i s = .next t) : ∀ x ∈ t.bus, x.Legal := by
  have hbase := isBase_of_checkChannel hs.cal_legal
  cases i with
  | set ch duty =>
    rcases execSet_cases h with ⟨e, -, rfl⟩ | ⟨c, code, landed, u, hc, hw, rfl⟩ | ⟨c, u, hc, hw, rfl⟩
    · exact hs.bus_legal
    · exact memWrite_bus_legal (t := u) (hbase ch c hc) hs.bus_legal hw
    · exact memWrite_bus_legal (t := u) (hbase ch c hc) hs.bus_legal hw
  | get ch =>
    rcases execGet_cases h with ⟨e, -, rfl⟩ | ⟨c, code, u, hc, hr, rfl⟩ | ⟨c, lo, code, u, v, hc, hr, hr', rfl⟩ |
      ⟨c, lo, hi, u, v, hc, hr, hr', rfl⟩
    · exact hs.bus_legal
    · exact memRead_bus_legal (t := u) hs.bus_legal (lowRead_legal (hbase ch c hc) _) hr
    · have hlow := memRead_bus_legal hs.bus_legal (lowRead_legal (hbase ch c hc) _) hr
      exact memRead_bus_legal (t := v) hlow (highRead_legal (hbase ch c hc) _) hr'
    · have hlow := memRead_bus_legal hs.bus_legal (lowRead_legal (hbase ch c hc) _) hr
      exact memRead_bus_legal (t := v) hlow (highRead_legal (hbase ch c hc) _) hr'
  | init | cfg | enc | dec =>
    rw [exec_bus_of_not_set_get h nofun nofun]
    exact hs.bus_legal

/-! Every move of the host. -/

theorem exec_keeps_inv {i : Instr} {s t : State} (hs : s.Inv) (h : exec i s = .next t) : t.Inv where
  cal_legal := exec_keeps_calLegal hs.cal_legal h
  initd_copied := (responds_of_exec h).rsp_initd
  rsp_legal := (responds_of_exec h).rsp_legal (isBase_of_checkChannel hs.cal_legal)
  cells_wf := exec_keeps_cells_wf hs h
  bus_legal := exec_keeps_bus_legal hs h

theorem runWord_keeps_inv {w : CommandWord} {s t : State} (hs : s.Inv) (h : runWord w s = .next t) : t.Inv := by
  cases hd : decode w with
  | command i => exact exec_keeps_inv hs ((runWord_of_decode hd s).symm.trans h)
  | illegal why =>
    rw [runWord_illegal hd] at h
    cases h
    exact ⟨hs.cal_legal, rfl, Rsp.legal_of_no_payload _ (fun _ => rfl) (fun _ => .inl rfl), hs.cells_wf, hs.bus_legal⟩

theorem resetBlock_inv {s : State} (hs : s.Inv) : (resetBlock s).Inv where
  cal_legal := nofun
  initd_copied := rfl
  rsp_legal := Rsp.legal_of_no_payload _ (fun _ => rfl) (absurd rfl)
  cells_wf := by rw [resetBlock_cells]; exact hs.cells_wf
  bus_legal := by rw [resetBlock_bus]; exact hs.bus_legal

/-- The host's own write touches nothing of the block (R125, R126). -/
theorem hostWrite_keeps_inv {b : Byte} {s t : State} {r : WriteReply} (hs : s.Inv)
    (hb : b = Config.cfgByte ∨ b = Config.resetByte) (h : hostWrite b s = some (r, t)) : t.Inv := by
  obtain ⟨-, rfl⟩ := hostWrite_some h
  refine ⟨hs.cal_legal, hs.initd_copied, hs.rsp_legal, write_wf _ hs.cells_wf (by decide), ?_⟩
  exact List.forall_mem_append.mpr
    ⟨hs.bus_legal, List.forall_mem_singleton.mpr ⟨rfl, rfl, hb.imp (congrArg ([·])) (congrArg ([·]))⟩⟩

theorem restartedCells_wf {s : State} (hs : Memory.wf s.cells = true) (n : Nat) (r : WriteReply) :
    Memory.wf (restartedCells s n r) = true := by
  unfold restartedCells
  split
  · exact allFullOff_wf le_rfl hs
  · exact allForcedOff_wf n le_rfl rfl
  · rfl

/-- The ways the configuration write completes. -/
theorem hostConfigure_cases {s t : State} (h : hostConfigure s = .next t) :
    (∃ u, hostWrite Config.cfgByte s = some (.ok, u) ∧ t = { u with autoInc := true }) ∨
    (∃ code landed, hostWrite Config.cfgByte s = some (.fail code landed, t)) := by
  unfold hostConfigure at h
  rcases hw : hostWrite Config.cfgByte s with _ | ⟨_ | ⟨code, landed⟩, u⟩
  · simp [hw] at h
  · simp only [hw] at h; cases h; exact .inl ⟨u, rfl, rfl⟩
  · simp only [hw] at h; cases h; exact .inr ⟨code, landed, rfl⟩

/-- The one way the restart command completes. -/
theorem hostRestart_some {s t : State} (h : hostRestart s = .next t) :
    ∃ r u, hostWrite Config.resetByte s = some (r, u) ∧
      t = { u with cells := restartedCells u s.draw r, cellsDraw := restartedDraw u s.draw r, autoInc := false } := by
  unfold hostRestart at h
  rcases hw : hostWrite Config.resetByte s with _ | ⟨r, u⟩
  · simp [hw] at h
  · simp only [hw] at h; cases h; exact ⟨r, u, rfl, rfl⟩

theorem applyMove_keeps_inv {m : HostMove} {s t : State} (hs : s.Inv) (h : applyMove m s = .next t) : t.Inv := by
  cases m with
  | command w => exact runWord_keeps_inv hs h
  | resetBlock => exact Host.Outcome.next.inj h ▸ resetBlock_inv hs
  | configureTarget =>
    rcases hostConfigure_cases h with ⟨u, hw, rfl⟩ | ⟨code, landed, hw⟩
    · obtain ⟨hcal, hinitd, hrsp, hcells, hbus⟩ := hostWrite_keeps_inv hs (.inl rfl) hw
      exact ⟨hcal, hinitd, hrsp, hcells, hbus⟩
    · exact hostWrite_keeps_inv hs (.inl rfl) hw
  | restartTarget =>
    obtain ⟨r, u, hw, rfl⟩ := hostRestart_some h
    obtain ⟨hcal, hinitd, hrsp, hcells, hbus⟩ := hostWrite_keeps_inv hs (.inr rfl) hw
    exact ⟨hcal, hinitd, hrsp, restartedCells_wf hcells s.draw r, hbus⟩

/-- Settles O10: an idle step changes nothing, and each move of the host keeps the invariant. -/
theorem everyStepKeepsLegality : Obligations.EveryStepKeepsLegality := by
  intro s t hs h
  cases hhost : s.host with
  | nil => rw [step_idle hhost] at h; cases h; exact hs
  | cons m rest =>
    rw [step_move hhost] at h
    exact applyMove_keeps_inv (s := { s with host := rest })
      ⟨hs.cal_legal, hs.initd_copied, hs.rsp_legal, hs.cells_wf, hs.bus_legal⟩ h

/-- Settles O9: the block is not initialised, its response is blank, and nothing is known of the target. -/
theorem legalAtReset : Obligations.LegalAtReset where
  cal_legal := nofun
  initd_copied := rfl
  rsp_legal := Rsp.legal_of_no_payload _ (fun _ => rfl) (absurd rfl)
  cells_wf := rfl
  bus_legal := nofun

/-- Settles O8: the reset writes `CAL`, `INITD` and `RSP`, and draws one free value. -/
theorem resetClearsBlockAndNothingElse : Obligations.ResetClearsBlockAndNothingElse := by
  refine ⟨rfl, by decide, rfl, fun k hk => entry_of_table (f := Config.unspecifiedCal 0) rfl hk,
    fun s => ⟨resetBlock s, rfl, rfl, (by decide : (Rsp.blank false).word = 0), fun k hk => entry_of_table (resetBlock_cal s) hk, rfl⟩,
    fun s => step_idle⟩

/-- Settles O51: a legal transaction of the encoder names a base register, or in a read the one after it. -/
theorem encoderStaysInChannelRegisters : Obligations.EncoderStaysInChannelRegisters := by
  rintro s ⟨m, dev, addr, op⟩ hs hx hm
  obtain rfl : m = .encoder := hm
  obtain ⟨-, hlegal⟩ := hs.bus_legal _ hx
  cases op with
  | write bytes failure =>
    obtain ⟨hbase, hlength⟩ := hlegal
    have hrange := base_add_four_le hbase
    refine ⟨hrange.1, by omega, fun bytes' failure' heq => ?_⟩
    cases heq
    exact hlength ▸ hrange.2
  | read r =>
    have hrange : 6 ≤ addr.toNat ∧ addr.toNat ≤ 0x45 := by
      rcases hlegal with hbase | hbase
      · have hlow : 6 ≤ addr.toNat ∧ addr.toNat + 4 ≤ 0x46 := base_add_four_le hbase
        omega
      · have hlow : 6 ≤ (addr - 1).toNat ∧ (addr - 1).toNat + 4 ≤ 0x46 := base_add_four_le hbase
        bv_omega
    exact ⟨hrange.1, hrange.2, nofun⟩

end Sys2Proof.Proofs
end

section
/-! PROOFS. The family 41_codec.md again: the facts about the interior class, the range of `Decode` and its round trip, and from
them the default calibration and the exact scales: the obligations O16, O17, O23 to O27, O29, O30 and O32. -/

namespace Sys2Proof.Proofs
open Sys2Proof.Machine Sys2Proof.Claims

/-! The override bits (R61). -/

/-- Settles O23: each override flag says that the class is its own, and interior is the class that is neither. -/
theorem overridesAreExclusive : Obligations.OverridesAreExclusive := by
  intro duty off S
  have hhigh := codecEncode_high_bytes duty off S
  rw [foffFlag_codecEncode, fonFlag_codecEncode]
  cases hc : classOf duty S <;> simp [hhigh]

/-! The range of an interior duty cycle. -/

theorem ceilOf_mul_le {S : Nat} (hS : 1 ≤ S) : ceilOf S * (S : Int) ≤ 1048576 := by
  rw [ceilOf_of_pos hS]
  exact Int.ediv_mul_le _ (by omega)

theorem le_ceilOf_iff {S : Nat} (hS : 1 ≤ S) (duty : Int) : duty ≤ ceilOf S ↔ duty * (S : Int) ≤ 1048576 := by
  rw [ceilOf_of_pos hS, Int.le_ediv_iff_mul_le (by omega)]

theorem ceilOf_mul_eq_iff {S : Nat} (hS : 1 ≤ S) : ceilOf S * (S : Int) = 1048576 ↔ S ∣ 1048576 := by
  rw [ceilOf_of_pos hS]
  constructor
  · exact fun h => by exact_mod_cast Dvd.intro_left _ h
  · exact fun h => Int.ediv_mul_cancel (by exact_mod_cast h)

theorem interior_range {duty : Int} {S : Nat} (hS : 1 ≤ S) (hc : classOf duty S = .interior) :
    1 ≤ duty ∧ duty ≤ ceilOf S := by
  obtain ⟨hpos, hspan⟩ := (classOf_interior_iff duty S).mp hc
  exact ⟨hpos, (le_ceilOf_iff hS duty).mpr hspan.le⟩

/-- `Ceil(S)` is interior exactly when `Ceil(S) * S` falls short of the span. -/
theorem classOf_ceilOf_iff {S : Nat} (hS : 1 ≤ S) (hmax : S ≤ 65535) :
    classOf (ceilOf S) S = .interior ↔ ¬ S ∣ 1048576 := by
  have hrange := ceilOf_range hS hmax
  have hle := ceilOf_mul_le hS
  rw [classOf_interior_iff, ← ceilOf_mul_eq_iff hS]
  omega

/-- Settles O24, by the product `Ceil(S) * S`, which reaches the span exactly when `S` divides it. -/
theorem interiorDutyRange : Obligations.InteriorDutyRange :=
  fun _ _ hS => ⟨interior_range hS, classOf_ceilOf_iff hS⟩

/-! The points with offset 0. -/

@[simp] theorem offPoint_zero (S : Nat) : offPoint 0 S = 0 := by simp [offPoint]

/-- The scaled inverse of an interior duty cycle stays below the span, so its ON point with offset 0 needs no reduction. -/
theorem onPoint_zero_range {duty : Int} {S : Nat} (hS : 1 ≤ S) (hc : classOf duty S = .interior) :
    0 ≤ onPoint duty 0 S ∧ onPoint duty 0 S ≤ 4095 := by
  obtain ⟨hpos, hle⟩ := interior_range hS hc
  have hnonneg : 0 ≤ (ceilOf S - duty) * (S : Int) := mul_nonneg (by omega) (by omega)
  have hstep : (ceilOf S - duty) * (S : Int) ≤ ceilOf S * S - S := by nlinarith
  have hspan := ceilOf_mul_le hS
  rw [onPoint, add_zero]
  omega

theorem codecEncode_zero_ovf {duty : Int} {S : Nat} (hS : 1 ≤ S) (hc : classOf duty S = .interior) :
    (codecEncode duty 0 S).ovf = false := by
  have hrange := onPoint_zero_range hS hc
  rw [codecEncode_interior 0 hc, ← Bool.not_eq_true]
  refine (ovfFlag_iff _ _).not.mpr ?_
  rw [offPoint_zero]
  omega

theorem codecEncode_eq_iff {duty : Int} {S : Nat} (off : Int) (hc : classOf duty S = .interior) :
    (codecEncode duty off S).eq = true ↔ onPoint duty off S % 4096 = offPoint off S % 4096 := by
  rw [codecEncode_interior off hc]
  exact eqFlag_pack12_iff _ _

/-- With offset 0 the points collide exactly when the scaled inverse rounds down to 0. -/
theorem codecEncode_zero_eq_iff {duty : Int} {S : Nat} (hS : 1 ≤ S) (hc : classOf duty S = .interior) :
    (codecEncode duty 0 S).eq = true ↔ (ceilOf S - duty) * (S : Int) < 256 := by
  obtain ⟨hlow, hhigh⟩ := onPoint_zero_range hS hc
  rw [codecEncode_eq_iff 0 hc, offPoint_zero, Int.emod_eq_of_lt hlow (by omega)]
  rw [onPoint, add_zero] at hlow ⊢
  omega

/-- At a scale factor of at least 1 the only collision with offset 0 is at `Ceil(S)`. -/
theorem codecEncode_zero_eq_iff_ceilOf {duty : Int} {S : Nat} (hS : 256 ≤ S) (hc : classOf duty S = .interior) :
    (codecEncode duty 0 S).eq = true ↔ duty = ceilOf S := by
  obtain ⟨-, hle⟩ := interior_range (by omega) hc
  rw [codecEncode_zero_eq_iff (by omega) hc]
  constructor
  · intro hlt
    by_contra hne
    have hone : 1 ≤ ceilOf S - duty := by omega
    nlinarith
  · rintro rfl
    simp

theorem mul_lt_iff_sub_div_lt {S : Nat} (hS : 1 ≤ S) (a duty : Int) :
    (a - duty) * (S : Int) < 256 ↔ (a : ℚ) - 256 / (S : ℚ) < duty := by
  have hpos : (0 : ℚ) < S := by exact_mod_cast hS
  rw [sub_lt_comm, lt_div_iff₀ hpos]
  exact_mod_cast Iff.rfl

/-- Settles O25: below a scale factor of 1 the bound is the same product, divided by the scale number. -/
theorem flagsWithZeroOffset : Obligations.FlagsWithZeroOffset := by
  intro duty S hS hc
  have hrange := onPoint_zero_range hS hc
  exact ⟨offPoint_zero S, hrange.1, hrange.2, codecEncode_zero_ovf hS hc, codecEncode_zero_eq_iff hS hc,
    fun hlarge => codecEncode_zero_eq_iff_ceilOf hlarge hc,
    fun _ => (codecEncode_zero_eq_iff hS hc).trans (mul_lt_iff_sub_div_lt hS _ _)⟩

/-! The points with any offset. -/

/-- Settles O26: the point is a floor of a product that falls with the duty cycle. -/
theorem onPointFallsAsDutyRises : Obligations.OnPointFallsAsDutyRises := by
  intro duty duty' off S _ hle
  refine Int.ediv_le_ediv (by norm_num) (mul_le_mul_of_nonneg_right ?_ (Int.natCast_nonneg S))
  omega

/-- The two floors lose less than one each, so the points' distance is within 1 of the scaled inverse. -/
theorem point_distance (duty off : Int) (S : Nat) :
    (ceilOf S - duty) * (S : Int) - 256 < 256 * (onPoint duty off S - offPoint off S) ∧
    256 * (onPoint duty off S - offPoint off S) < (ceilOf S - duty) * (S : Int) + 256 := by
  rw [onPoint, offPoint, add_mul]
  omega

/-- Settles O27: points that agree modulo 4096 lie a multiple of 4096 apart, and the distance of the points is known. -/
theorem collisionOnlyAtTheEdges : Obligations.CollisionOnlyAtTheEdges := by
  intro duty off S _ hc
  obtain ⟨hlow, hhigh⟩ := point_distance duty off S
  refine ⟨hlow, hhigh, fun heq => ?_⟩
  rw [codecEncode_eq_iff off hc] at heq
  omega

/-! `Decode`: its range and its round trip. -/

/-- The quotient that `Decode` subtracts, against `Ceil(S)`: the worst case is the scale number 1. -/
theorem decode_quotient_range {raw S : Nat} (hS : 1 ≤ S) (hmax : S ≤ 65535) (hraw : raw < 65536) :
    0 ≤ ((raw : Int) * 256 + S - 1) / (S : Int) ∧
    ((raw : Int) * 256 + S - 1) / (S : Int) ≤ ceilOf S + 15728384 := by
  have hpos : (0 : Int) < S := by omega
  refine ⟨Int.ediv_nonneg (by omega) hpos.le, ?_⟩
  rcases hS.eq_or_lt with rfl | hS2
  · rw [ceilOf_of_pos le_rfl]
    omega
  · have hceil := ceilOf_range hS hmax
    refine (Int.ediv_le_of_le_mul hpos ?_).trans (by omega : (8388481 : Int) ≤ _)
    omega

theorem codecDecode_range {raw S : Nat} {off : Int} (hS : 1 ≤ S) (hmax : S ≤ 65535) (hraw : raw < 65536)
    (hlow : -32768 ≤ off) (hhigh : off ≤ 32767) :
    -15761152 ≤ codecDecode raw off S ∧ codecDecode raw off S ≤ 1081343 := by
  have hceil := ceilOf_range hS hmax
  have hquot := decode_quotient_range hS hmax hraw
  rw [codecDecode_of_pos raw off hS]
  omega

theorem scale_range {c : CalEntry} (h : c.scale ≠ 0) : 1 ≤ c.scale.toNat ∧ c.scale.toNat ≤ 65535 := by
  have hlt := c.scale.isLt
  have hne : c.scale.toNat ≠ 0 := fun hz => h (BitVec.eq_of_toNat_eq hz)
  omega

/-- Settles O29: the range lies within 32 bits of two's complement. -/
theorem decodeFitsResultField : Obligations.DecodeFitsResultField := by
  intro c raw hscale hraw
  obtain ⟨hS, hmax⟩ := scale_range hscale
  have hlow := c.off.le_toInt
  have hhigh := c.off.toInt_lt
  have hrange := codecDecode_range hS hmax hraw (off := c.off.toInt) (by omega) (by omega)
  refine ⟨hrange.1, hrange.2, ?_⟩
  rw [CalEntry.decodeRaw, BitVec.toInt_ofInt]
  exact Int.bmod_eq_of_le (by simp only [CalEntry.offset, CalEntry.scaleNat]; omega)
    (by simp only [CalEntry.offset, CalEntry.scaleNat]; omega)

/-- The two bytes of the ON pair of an interior payload are the packed point. -/
theorem rawOf_onPair {duty : Int} {S : Nat} (off : Int) (hc : classOf duty S = .interior) :
    rawOf (codecEncode duty off S).payload.onLo (codecEncode duty off S).payload.onHi = pack12 (onPoint duty off S) := by
  rw [codecEncode_interior off hc]
  exact rawOf_bytes ((pack12_lt _).trans (by norm_num))

theorem rawOf_offPair {duty : Int} {S : Nat} (off : Int) (hc : classOf duty S = .interior) :
    rawOf (codecEncode duty off S).payload.offLo (codecEncode duty off S).payload.offHi = pack12 (offPoint off S) := by
  rw [codecEncode_interior off hc]
  exact rawOf_bytes ((pack12_lt _).trans (by norm_num))

/-- Rounding up undoes rounding down where one step of `a` is worth at least 1, that is 256 units. -/
theorem ceil_div_floor_mul (a : Int) {S : Nat} (hS : 256 ≤ S) :
    (a * (S : Int) / 256 * 256 + S - 1) / (S : Int) = a := by
  rw [Int.ediv_eq_iff_of_pos (by omega)]
  constructor <;> omega

/-- Settles O30: the decoder divides the ON point by the scale factor and rounds up, which undoes the encoder's floor. -/
theorem interiorDutyRoundTrips : Obligations.InteriorDutyRoundTrips := by
  intro duty off S hS hc hlow hhigh
  rw [rawOf_onPair off hc, codecDecode_of_pos _ off (by omega), pack12_of_range hlow hhigh, onPoint, ceil_div_floor_mul _ hS]
  omega

/-! Scales that divide the span (R133). -/

theorem codecEncode_no_flags_of_exact_scale {S : Nat} (hS : 256 ≤ S) (hmax : S ≤ 65535) (hdvd : S ∣ 1048576)
    (duty : Int) : (codecEncode duty 0 S).eq = false ∧ (codecEncode duty 0 S).ovf = false := by
  by_cases hc : classOf duty S = .interior
  · refine ⟨?_, codecEncode_zero_ovf (by omega) hc⟩
    rw [← Bool.not_eq_true, codecEncode_zero_eq_iff_ceilOf hS hc]
    rintro rfl
    exact (classOf_ceilOf_iff (by omega) hmax).mp hc hdvd
  · exact (codecEncode_flags_of_override hc).symm

/-- Settles O32: an exact `Ceil(S)` is not interior, and the scale numbers are the powers of two from 2 ^ 8 to 2 ^ 15. -/
theorem collisionFreeScales : Obligations.CollisionFreeScales := by
  rintro duty S ⟨hS, hdvd⟩ hmax
  have hdvd' : S ∣ 1048576 := Int.natCast_dvd_natCast.mp hdvd
  obtain ⟨heq, hovf⟩ := codecEncode_no_flags_of_exact_scale hS hmax hdvd' duty
  refine ⟨heq, hovf, ?_⟩
  obtain ⟨j, hj, rfl⟩ := (dvd_span_iff_powerOfTwo S).mp hdvd'
  interval_cases j <;> simp at hS hmax ⊢

/-! The caller ranges with an exact scale (R70). -/

/-- Settles O17: a range and its scale are two divisors of the span, and for any other scale `Ceil(S)` is interior with both
points 0. -/
theorem callerRangesWithExactScale : Obligations.CallerRangesWithExactScale := by
  refine ⟨fun M S hMS hmax => ⟨?_, fun duty hpos => ?_⟩, fun j hlow hhigh => ⟨2 ^ (20 - j), ?_, ?_, ?_⟩,
    fun S hS hmax hdvd => ?_⟩
  · obtain ⟨j, hj, rfl⟩ := (dvd_span_iff_powerOfTwo M).mp (Dvd.intro_left S hMS)
    refine ⟨j, ?_, hj, rfl⟩
    by_contra hlt
    have hpow : 2 ^ j ≤ 2 ^ 4 := Nat.pow_le_pow_right (by norm_num) (by omega)
    nlinarith
  · have hSpos : (0 : Int) < S := by
      rcases Nat.eq_zero_or_pos S with rfl | h
      · omega
      · exact_mod_cast h
    have hspan : (1048576 : Int) = M * S := by rw [mul_comm]; exact_mod_cast hMS.symm
    rw [classOf_fullOn_iff, hspan, mul_le_mul_iff_left₀ hSpos]
    exact and_iff_right hpos
  · exact Nat.one_le_two_pow
  · have hpow : 2 ^ (20 - j) ≤ 2 ^ 15 := Nat.pow_le_pow_right (by norm_num) (by omega)
    omega
  · rw [← pow_add, Nat.sub_add_cancel hhigh]
    norm_num
  · have hc := (classOf_ceilOf_iff hS hmax).mpr hdvd
    have hon : onPoint (ceilOf S) 0 S = 0 := by simp [onPoint]
    refine ⟨hc, ?_, ?_⟩
    · rw [codecEncode_eq_iff 0 hc, hon, offPoint_zero]
    · rw [codecEncode_interior 0 hc, encodeInterior, hon, offPoint_zero]
      rfl

/-! The default calibration (R69, R87). -/

theorem ceilOf_default : ceilOf 1024 = 1024 := by decide

theorem classOf_default_interior {duty : Int} (hlow : 1 ≤ duty) (hhigh : duty ≤ 1023) :
    classOf duty 1024 = .interior := by
  rw [classOf_interior_iff]
  omega

theorem onPoint_default (duty : Int) : onPoint duty 0 1024 = 4096 - 4 * duty := by
  rw [onPoint, ceilOf_default]
  omega

theorem exec_init_entry {s t : State} {k : Nat} {c : CalEntry} (h : exec .init s = .next t) (hc : t.entry k = some c) :
    c = CalEntry.default k := by
  cases h
  exact Option.some.inj (hc.symm.trans (entry_of_table (f := CalEntry.default) rfl (lt_of_entry hc)))

/-- Settles O16: the default scale factor is 4 and divides the span, so the facts about exact scales and the round trip hold
of it. -/
theorem defaultCalibrationTable : Obligations.DefaultCalibrationTable := by
  intro s t k c h hc
  obtain rfl := exec_init_entry h hc
  have hencode (duty : Int) : (CalEntry.default k).encodeDuty duty = codecEncode duty 0 1024 := rfl
  simp only [hencode]
  refine ⟨ceilOf_default, fun duty hle => ?_, fun duty hle => ?_, fun duty hlow hhigh => ?_⟩
  · rw [codecEncode_fullOff 0 (classOf_of_nonpos hle _)]
    rfl
  · rw [codecEncode_fullOn 0 ((classOf_fullOn_iff duty 1024).mpr (by omega))]
    rfl
  · have hint := classOf_default_interior hlow hhigh
    have hon := onPoint_default duty
    obtain ⟨heq, hovf⟩ := codecEncode_no_flags_of_exact_scale (S := 1024) (by norm_num) (by norm_num) (by norm_num) duty
    refine ⟨?_, ?_, hovf, heq, ?_⟩
    · rw [rawOf_onPair 0 hint, pack12_of_range (by omega) (by omega), hon]
    · rw [rawOf_offPair 0 hint, offPoint_zero]
      rfl
    · have hfits := decodeFitsResultField (CalEntry.default k)
        (rawOf (codecEncode duty 0 1024).payload.onLo (codecEncode duty 0 1024).payload.onHi)
        (by decide : Config.defaultScale ≠ 0) (rawOf_lt _ _)
      exact hfits.2.2.trans (interiorDutyRoundTrips duty 0 1024 (by norm_num) hint (by omega) (by omega))

end Sys2Proof.Proofs
end

section
/-! PROOFS. The family 42_channel_ops.md again: the ways SET and GET end once their checks passed, what a SET stores and leaves,
and from them the obligations O36 to O38, O40, O41 and O60. -/

namespace Sys2Proof.Proofs
open Sys2Proof.Machine Sys2Proof.Claims

/-! The ways SET and GET end, by the answers of the target (R95, R96). -/

section
variable {ch : Nat} {s : State} {c : CalEntry}

theorem memWrite_eq_afterWrite {r : WriteReply} (h : s.nextWrite = some r) (a : Byte) (p : Payload) :
    memWrite a p s = some (r, afterWrite s a p r) :=
  memWrite_of_reply h

theorem memRead_eq_afterRead {a : Byte} {r : ReadReply} (h : s.nextRead a = some r) :
    memRead a s = some (r, afterRead s a r) :=
  memRead_of_reply h

@[simp] theorem afterWrite_initd (s : State) (a : Byte) (p : Payload) (r : WriteReply) :
    (afterWrite s a p r).initd = s.initd := rfl

@[simp] theorem afterRead_initd (s : State) (a : Byte) (r : ReadReply) : (afterRead s a r).initd = s.initd := rfl

theorem exec_set_of_write_ok {duty : Int} (hc : checkChannel ch s = .ok c) (h : s.nextWrite = some .ok) :
    exec (.set ch duty) s = .next (encodedResponse c duty (afterWrite s c.base (c.encodeDuty duty).payload .ok)) := by
  simp only [exec, execSet, hc, memWrite_eq_afterWrite h]

theorem exec_set_of_write_fail {duty : Int} {code : Byte} {landed : BitVec 4} (hc : checkChannel ch s = .ok c)
    (h : s.nextWrite = some (.fail code landed)) :
    exec (.set ch duty) s =
      .next (raise .transportFailure code 0 (afterWrite s c.base (c.encodeDuty duty).payload (.fail code landed))) := by
  simp only [exec, execSet, hc, memWrite_eq_afterWrite h]

theorem exec_set_of_write_never {duty : Int} (hc : checkChannel ch s = .ok c) (h : s.nextWrite = none) :
    exec (.set ch duty) s = .fault .neverReturns := by
  simp only [exec, execSet, hc, memWrite_none_iff.mpr h]

theorem exec_get_of_low_never (hc : checkChannel ch s = .ok c) (h : s.nextRead c.base = none) :
    exec (.get ch) s = .fault .neverReturns := by
  simp only [exec, execGet, hc, memRead_none_iff.mpr h]

theorem exec_get_of_low_fail {code : Byte} (hc : checkChannel ch s = .ok c) (h : s.nextRead c.base = some (.fail code)) :
    exec (.get ch) s =
      .next (raise .transportFailure code Config.dutySentinel (afterRead s c.base (.fail code))) := by
  simp only [exec, execGet, hc, memRead_eq_afterRead h]

theorem exec_get_of_low {lo : Byte} (hc : checkChannel ch s = .ok c) (h : s.nextRead c.base = some (.byte lo)) :
    exec (.get ch) s = getOnHigh c lo (afterRead s c.base (.byte lo)) := by
  simp only [exec, execGet, hc, memRead_eq_afterRead h]

theorem getOnHigh_of_never {lo : Byte} (h : s.nextRead (c.base + 1) = none) :
    getOnHigh c lo s = .fault .neverReturns := by
  simp only [getOnHigh, memRead_none_iff.mpr h]

theorem getOnHigh_of_fail {lo code : Byte} (h : s.nextRead (c.base + 1) = some (.fail code)) :
    getOnHigh c lo s = .next (raise .transportFailure code Config.dutySentinel (afterRead s (c.base + 1) (.fail code))) := by
  simp only [getOnHigh, memRead_eq_afterRead h]

theorem getOnHigh_of_byte {lo hi : Byte} (h : s.nextRead (c.base + 1) = some (.byte hi)) :
    getOnHigh c lo s = .next (decodedResponse c (rawOf lo hi) (afterRead s (c.base + 1) (.byte hi))) := by
  simp only [getOnHigh, memRead_eq_afterRead h]

end

/-- A transport failure in an initialised block, field by field (R118). -/
theorem raise_eq_errorRsp_of_initd {u : State} (h : u.initd = true) (code : Byte) (duty : DutyWord) :
    raise .transportFailure code duty u = { u with rsp := errorRsp .transportFailure true code duty } := by
  rw [raise_eq_errorRsp, h]

/-- Settles O36: each cause and each answer of the target has its one way to end, and field `B` decides the words. -/
theorem setWritesPayload : Obligations.SetWritesPayload := by
  intro ch duty s
  refine ⟨fun hi => ?_, fun hi hch => ?_, fun hi c hentry => ?_, fun w hopc hrsv hb => ?_, fun w hopc hb => ?_⟩
  · rw [exec_set_of_check_error (checkChannel_of_not_initd hi), raise_eq_errorRsp, hi]
  · rw [exec_set_of_check_error (checkChannel_of_bad_channel hi hch), raise_eq_errorRsp, hi]
  · have hc : checkChannel ch s = .ok c := checkChannel_ok_iff.mpr ⟨hi, hentry⟩
    refine ⟨fun hok => ?_, fun code landed hfail => ?_, exec_set_of_write_never hc⟩
    · rw [exec_set_of_write_ok hc hok, encodedResponse_eq_respond (by simpa using hi)]
      rfl
    · rw [exec_set_of_write_fail hc hfail, raise_eq_errorRsp_of_initd (by simpa using hi)]
      rfl
  · exact decode_of_matchesWord ((matchesWord_row_iff (.set 0 0) w).mpr ⟨hopc, hrsv, hb⟩)
  · exact runWord_of_decode_illegal ((decode_illegal_iff w).mpr (.inr (.inr (.inr (.inl ⟨.inr hopc, hb⟩))))) s

/-- Settles O37: each cause and each pair of answers has its one way to end, and fields `A` and `B` decide the words. -/
theorem getReadsOnPair : Obligations.GetReadsOnPair := by
  intro ch s
  refine ⟨fun hi => ?_, fun hi hch => ?_, fun hi c hentry => ?_, fun w hopc hrsv ha hb => ?_, fun w hopc hz => ?_⟩
  · rw [exec_get_of_check_error (checkChannel_of_not_initd hi), raise_eq_errorRsp, hi]
    rfl
  · rw [exec_get_of_check_error (checkChannel_of_bad_channel hi hch), raise_eq_errorRsp, hi]
    rfl
  · have hc : checkChannel ch s = .ok c := checkChannel_ok_iff.mpr ⟨hi, hentry⟩
    refine ⟨exec_get_of_low_never hc, fun code hfail => ?_, fun lo hlow => ?_⟩
    · rw [exec_get_of_low_fail hc hfail, raise_eq_errorRsp_of_initd (by simpa using hi)]
      rfl
    · rw [exec_get_of_low hc hlow]
      refine ⟨getOnHigh_of_never, fun code hfail => ?_, fun hi' hhigh => ?_⟩
      · rw [getOnHigh_of_fail hfail, raise_eq_errorRsp_of_initd (by simpa using hi)]
        rfl
      · rw [getOnHigh_of_byte hhigh, decodedResponse_eq_respond (by simpa using hi), rawOf_eq]
        rfl
  · exact decode_of_matchesWord ((matchesWord_row_iff (.get 0) w).mpr ⟨hopc, hrsv, ha, hb⟩)
  · exact runWord_of_decode_illegal ((decode_illegal_iff w).mpr (.inr (.inr (.inr (.inr (.inr ⟨hopc, hz⟩)))))) s

/-! What a SET stores (R32, R35, R38). -/

section
variable {a : Byte} {p : Payload} {s t : State} {r : WriteReply}

theorem memWrite_cells_of_assured (hs : s.burstAssured = true) (h : memWrite a p s = some (r, t)) :
    t.cells = Memory.land s.cells a.toNat (r.landed p.bytes) := by
  obtain ⟨-, rfl⟩ := memWrite_some h
  exact if_pos hs

theorem memWrite_cellsDraw_of_assured (hs : s.burstAssured = true) (h : memWrite a p s = some (r, t)) :
    t.cellsDraw = s.cellsDraw := by
  obtain ⟨-, rfl⟩ := memWrite_some h
  exact if_pos hs

theorem memWrite_cells_of_not_assured (hs : s.burstAssured = false) (h : memWrite a p s = some (r, t)) : t.cells = [] := by
  obtain ⟨-, rfl⟩ := memWrite_some h
  simp [State.afterBurst, hs]

/-- An assured burst leaves every register outside its four as it was. -/
theorem memWrite_read_outside (hs : s.burstAssured = true) (h : memWrite a p s = some (r, t)) {k : Nat}
    (hk : k < a.toNat ∨ a.toNat + 4 ≤ k) : Memory.read t.cells k = Memory.read s.cells k := by
  rw [memWrite_cells_of_assured hs h]
  exact read_land_outside (by simpa using hk) s.cells

/-- An assured burst leaves in each of its four registers the old byte, or the new one if it landed. -/
theorem memWrite_read_inside (hs : s.burstAssured = true) (h : memWrite a p s = some (r, t)) {i : Nat} (hi : i < 4) :
    Memory.read t.cells (a.toNat + i) =
      ((r.landed p.bytes)[i]'(by simpa using hi)).or (Memory.read s.cells (a.toNat + i)) := by
  rw [memWrite_cells_of_assured hs h]
  exact read_land_inside (by simpa using hi) s.cells

end

/-- A good burst lands whole. -/
theorem memWrite_ok_read_inside {a : Byte} {p : Payload} {s t : State} (hs : s.burstAssured = true)
    (h : memWrite a p s = some (.ok, t)) {i : Nat} (hi : i < 4) : Memory.read t.cells (a.toNat + i) = p.bytes[i]? := by
  have hlen : i < p.bytes.length := hi
  simp [memWrite_read_inside hs h hi, WriteReply.landed, List.getElem?_eq_getElem hlen]

theorem landedBytes_getElem (mask : BitVec 4) (k i : Nat) (bs : List Byte) (h : i < (landedBytes mask k bs).length) :
    (landedBytes mask k bs)[i] = none ∨ (landedBytes mask k bs)[i] = bs[i]? := by
  induction bs generalizing k i with
  | nil => simp [landedBytes] at h
  | cons b bs ih =>
    cases i with
    | zero =>
      by_cases hbit : mask.getLsbD k = true
      · exact .inr (by simp [landedBytes, hbit])
      · exact .inl (by simp [landedBytes, hbit])
    | succ i =>
      simp only [landedBytes, List.getElem_cons_succ, List.getElem?_cons_succ]
      exact ih (k + 1) i _

/-- A failed burst leaves the old byte or the new one. -/
theorem memWrite_fail_read_inside {a : Byte} {p : Payload} {s t : State} {code : Byte} {mask : BitVec 4}
    (hs : s.burstAssured = true) (h : memWrite a p s = some (.fail code mask, t)) {i : Nat} (hi : i < 4) :
    Memory.read t.cells (a.toNat + i) = Memory.read s.cells (a.toNat + i) ∨
    Memory.read t.cells (a.toNat + i) = p.bytes[i]? := by
  have hlen : i < p.bytes.length := hi
  rw [memWrite_read_inside hs h hi]
  rcases landedBytes_getElem mask 0 i p.bytes (by simpa using hi) with hnone | hnew
  · exact .inl (by simp [WriteReply.landed, hnone])
  · exact .inr (by simp [WriteReply.landed, hnew, List.getElem?_eq_getElem hlen])

/-- Settles O38, by what one assured burst does to the registers; a failed check does nothing to them. -/
theorem setStoresOnlyItsFourRegisters : Obligations.SetStoresOnlyItsFourRegisters := by
  intro ch duty s t hs h
  rcases execSet_cases h with ⟨e, hc, rfl⟩ | ⟨c, code, mask, u, hc, hw, rfl⟩ | ⟨c, u, hc, hw, rfl⟩
  · refine ⟨fun _ => ⟨fun _ => rfl, fun _ => rfl⟩, fun c hi hentry _ => ?_⟩
    rw [checkChannel_ok_iff.mpr ⟨hi, hentry⟩] at hc
    cases hc
  all_goals
    refine ⟨fun herr => by simp [Rsp.blank] at herr, fun d _ hd _ => ?_⟩
    obtain rfl : c = d := Option.some.inj ((entry_of_checkChannel hc).symm.trans hd)
    have houtside {k : Nat} := memWrite_read_outside hs hw (k := k)
    have hdraw := memWrite_cellsDraw_of_assured hs hw
    refine ⟨fun a ha => houtside ha, fun a ha => content_congr (houtside ha) hdraw, ?_, ?_⟩
  · exact fun hok => by cases hok
  · exact fun _ i hi => memWrite_fail_read_inside hs hw hi
  · exact fun _ i hi => memWrite_ok_read_inside hs hw hi
  · exact fun hfail => by cases hfail

/-- Settles O40, by the frame of SET; a burst draws the registers afresh exactly where it is not assured. -/
theorem setFrame : Obligations.SetFrame := by
  intro ch duty s t h
  have hframe := execSet_frame h
  have hcal : t.cal = s.cal := by rw [hframe]
  refine ⟨entry_congr hcal, by rw [hframe], by rw [hframe], by rw [hframe], by rw [hframe], by rw [hframe], ?_, ?_⟩ <;>
    rcases execSet_cases h with ⟨e, hc, rfl⟩ | ⟨c, code, mask, u, -, hw, rfl⟩ | ⟨c, u, -, hw, rfl⟩
  · exact fun _ => rfl
  · exact fun hcause => memWrite_cellsDraw_of_assured (t := u) (by simpa [Rsp.blank] using hcause) hw
  · exact fun hcause => memWrite_cellsDraw_of_assured (t := u) (by simpa [Rsp.blank] using hcause) hw
  · exact fun _ herr => absurd herr (not_or.mpr (checkChannel_error_ne hc))
  all_goals
    intro hs _ a
    have hcells := memWrite_cells_of_not_assured hs hw
    simp [hcells, Memory.read]

/-- Settles O41: the response is computed from the entry, the duty cycle and `INITD`, which the burst does not touch. -/
theorem setRespondsAsEnc : Obligations.SetRespondsAsEnc := by
  intro ch duty s t h hok
  rcases execSet_cases h with ⟨e, hc, rfl⟩ | ⟨c, code, mask, u, -, -, rfl⟩ | ⟨c, u, hc, hw, rfl⟩
  · exact absurd hok (checkChannel_error_ne hc).1
  · cases hok
  · rw [exec_enc_of_check_ok hc, encodedResponse_rsp, memWrite_initd hw]
    rfl

/-! The command after a CFG (R143). -/

/-- After a CFG that completed, the channel passes the check with an entry that holds the new offset and scale. -/
theorem checkChannel_after_cfg {ch S : Nat} {off : Int} {s t : State} (hoff : signedFits off = true)
    (hS : unsignedFits S = true) (h : exec (.cfg ch off S) s = .next t) (hok : t.rsp.err = .ok) :
    ∃ d, checkChannel ch t = .ok d ∧ d.offset = off ∧ d.scaleNat = S := by
  rcases execCfg_cases h with ⟨e, hc, rfl⟩ | ⟨c, -, -, rfl⟩ | ⟨c, hc, -, rfl⟩
  · exact absurd hok (checkChannel_error_ne hc).1
  · cases hok
  · obtain ⟨hinit, hlt⟩ := ready_of_checkChannel hc
    exact ⟨_, checkChannel_ok_iff.mpr ⟨hinit, entry_configure_same hlt s c _ _⟩, ofInt16_toInt hoff, ofNat16_toNat hS⟩

/-- Settles O60: ENC and DEC compute with the entry that the CFG left. -/
theorem cfgSeenByNextCommand : Obligations.CfgSeenByNextCommand := by
  intro ch off S duty raw s t hw h hok
  simp only [Instr.wellFormed, Bool.and_eq_true] at hw
  obtain ⟨⟨-, hoff⟩, hS⟩ := hw
  obtain ⟨d, hc, rfl, rfl⟩ := checkChannel_after_cfg hoff hS h hok
  exact ⟨⟨_, exec_enc_of_check_ok hc duty, rfl, rfl, rfl⟩, ⟨_, exec_dec_of_check_ok hc raw, rfl⟩⟩

end Sys2Proof.Proofs
end

section
/-! PROOFS. The family 60_exceptions.md section 6 and 70_reset_and_hazards.md: the host's two writes, the registers after a
restart, the reference target, the host's duties, and from them the obligations O52 to O56. -/

namespace Sys2Proof.Proofs
open Sys2Proof.Machine Sys2Proof.Claims

/-! The host's own writes (R125, R126). -/

/-- What the host's write leaves as it was. -/
theorem hostWrite_frame {b : Byte} {s t : State} {r : WriteReply} (h : hostWrite b s = some (r, t)) :
    t = { s with cells := t.cells, writeAnswers := t.writeAnswers, bus := t.bus, draw := t.draw } := by
  obtain ⟨-, rfl⟩ := hostWrite_some h
  rfl

theorem hostWrite_bus {b : Byte} {s t : State} {r : WriteReply} (h : hostWrite b s = some (r, t)) :
    t.bus = s.bus ++ [⟨.host, Config.devAddr, Config.controlReg, .write [b] r.failure⟩] := by
  obtain ⟨-, rfl⟩ := hostWrite_some h
  rfl

theorem hostWrite_cells {b : Byte} {s t : State} {r : WriteReply} (h : hostWrite b s = some (r, t)) :
    ∃ x, t.cells = Memory.write s.cells 0 x := by
  obtain ⟨-, rfl⟩ := hostWrite_some h
  exact ⟨_, rfl⟩

theorem hostWrite_read_other {b : Byte} {s t : State} {r : WriteReply} (h : hostWrite b s = some (r, t)) {a : Nat}
    (ha : a ≠ 0) : Memory.read t.cells a = Memory.read s.cells a := by
  obtain ⟨x, hcells⟩ := hostWrite_cells h
  rw [hcells, read_write_other ha]

theorem failure_eq_none_iff (r : WriteReply) : r.failure = none ↔ r = .ok := by
  cases r <;> simp [WriteReply.failure]

theorem burstAssured_of_autoInc {s : State} (h : s.autoInc = true) : s.burstAssured = true := by
  unfold State.burstAssured
  split
  · exact h
  · rfl

/-- A configuration write, whether it succeeded or not, leaves the block and the host as they were. -/
theorem hostConfigure_frame {s t : State} (h : hostConfigure s = .next t) :
    t = { s with
      cells := t.cells, autoInc := t.autoInc, writeAnswers := t.writeAnswers, bus := t.bus, draw := t.draw } := by
  rcases hostConfigure_cases h with ⟨u, hw, rfl⟩ | ⟨code, landed, hw⟩
  · rw [hostWrite_frame hw]
  · rw [hostWrite_frame hw]

theorem hostConfigure_read_other {s t : State} (h : hostConfigure s = .next t) {a : Nat} (ha : a ≠ 0) :
    Memory.read t.cells a = Memory.read s.cells a := by
  rcases hostConfigure_cases h with ⟨u, hw, rfl⟩ | ⟨code, landed, hw⟩
  · exact hostWrite_read_other hw ha
  · exact hostWrite_read_other hw ha

/-- One transaction of the host, and the burst is assured if it succeeded. -/
theorem hostConfigure_bus {s t : State} (h : hostConfigure s = .next t) :
    ∃ failure, t.bus = s.bus ++ [⟨.host, Config.devAddr, 0x00, .write [0x21] failure⟩] ∧
      (failure = none → t.burstAssured = true) := by
  rcases hostConfigure_cases h with ⟨u, hw, rfl⟩ | ⟨code, landed, hw⟩
  · have hbus := hostWrite_bus hw
    exact ⟨_, hbus, fun _ => burstAssured_of_autoInc rfl⟩
  · exact ⟨_, hostWrite_bus hw, nofun⟩

/-- A restart command, whether it succeeded or not, leaves the block and the host as they were. -/
theorem hostRestart_frame {s t : State} (h : hostRestart s = .next t) :
    t = { s with
      cells := t.cells, cellsDraw := t.cellsDraw, autoInc := t.autoInc, writeAnswers := t.writeAnswers, bus := t.bus
      draw := t.draw } := by
  obtain ⟨r, u, hw, rfl⟩ := hostRestart_some h
  rw [hostWrite_frame hw]

/-! The registers after a restart (R44, R127). -/

/-- After `allFullOff` the four registers of every channel hold the full-off payload. -/
theorem allFullOff_read {n : Nat} (hn : n ≤ 16) (m : Memory) {k i : Nat} (hk : k < n) (hi : i < 4) :
    Memory.read (allFullOff n m) (4 * k + 6 + i) = Payload.fullOff.bytes[i]? := by
  induction n with
  | zero => omega
  | succ n ih =>
    simp only [allFullOff]
    rw [baseOf_toNat (by omega)]
    rcases Nat.lt_or_eq_of_le (Nat.le_of_lt_succ hk) with h | rfl
    · rw [read_land_outside (by omega)]
      exact ih (by omega) h
    · have hlen : i < Payload.fullOff.bytes.length := hi
      simp [read_land_inside (bs := Payload.fullOff.bytes.map some) (by simpa using hi), List.getElem?_eq_getElem hlen]

theorem restartedCells_free {s : State} (h : s.targetKind = .free) (n : Nat) :
    restartedCells s n .ok = allForcedOff n 16 [] := by
  unfold restartedCells
  rw [h]
  rfl

theorem restartedCells_reference {s : State} (h : s.targetKind = .reference) (n : Nat) :
    restartedCells s n .ok = allFullOff 16 s.cells := by
  unfold restartedCells
  rw [h]
  rfl

theorem restartedDraw_reference {s : State} (h : s.targetKind = .reference) (n : Nat) :
    restartedDraw s n .ok = s.cellsDraw := by
  unfold restartedDraw
  rw [h]

/-- After a restart that succeeded the OFF-high register of every channel has the full-off override, on any target. -/
theorem restartedCells_offHigh (s : State) (n : Nat) {k : Nat} (hk : k < 16) :
    ∃ b : Byte, Memory.read (restartedCells s n .ok) (4 * k + 9) = some b ∧ b.getLsbD 4 = true := by
  cases hkind : s.targetKind with
  | free =>
    rw [restartedCells_free hkind]
    exact allForcedOff_read n le_rfl [] hk
  | reference =>
    rw [restartedCells_reference hkind]
    exact ⟨_, allFullOff_read le_rfl s.cells hk (i := 3) (by norm_num), by decide⟩

theorem hostRestart_bus {s t : State} (h : hostRestart s = .next t) :
    ∃ failure, t.bus = s.bus ++ [⟨.host, Config.devAddr, 0x00, .write [0xA1] failure⟩] ∧
      (failure = none → ∀ k, k < 16 → ∃ b : Byte, Memory.read t.cells (4 * k + 9) = some b ∧ b.getLsbD 4 = true) := by
  obtain ⟨r, u, hw, rfl⟩ := hostRestart_some h
  have hbus := hostWrite_bus hw
  refine ⟨_, hbus, fun hok k hk => ?_⟩
  obtain rfl := (failure_eq_none_iff r).mp hok
  exact restartedCells_offHigh u s.draw hk

/-- Settles O52, by the frames of the two writes and the registers that each of them leaves. -/
theorem hostWritesLeaveBlockAlone : Obligations.HostWritesLeaveBlockAlone := by
  refine fun s t => ⟨fun (h : hostConfigure s = .next t) => ?_, fun (h : hostRestart s = .next t) => ?_⟩
  · have hframe := hostConfigure_frame h
    refine ⟨by rw [hframe], by rw [hframe], by rw [hframe], by rw [hframe], hostConfigure_bus h,
      fun a ha => hostConfigure_read_other h ha, fun a ha => ?_⟩
    have ha0 : a.toNat ≠ 0 := fun hz => ha (BitVec.eq_of_toNat_eq hz)
    exact content_congr (hostConfigure_read_other h ha0) (by rw [hframe])
  · have hframe := hostRestart_frame h
    exact ⟨by rw [hframe], by rw [hframe], by rw [hframe], by rw [hframe], hostRestart_bus h⟩

/-! The reference target (R44). -/

theorem nextWrite_reference {s : State} (hk : s.targetKind = .reference) (hw : s.writeAnswers = []) :
    s.nextWrite = some .ok := by
  simp [State.nextWrite, hk, hw]

/-- A GET on the reference target decodes what the two registers hold. -/
theorem exec_get_reference {ch : Nat} {s : State} {c : CalEntry} (hk : s.targetKind = .reference) (hr : s.readAnswers = [])
    (hc : checkChannel ch s = .ok c) :
    ∃ u, exec (.get ch) s = .next u ∧ u.rsp.err = .ok ∧
      u.rsp.duty = c.decodeRaw (rawOf (s.content c.base) (s.content (c.base + 1))) := by
  have hlow := nextRead_reference hk hr c.base
  have hr' : (afterRead s c.base (.byte (s.content c.base))).readAnswers = [] := by simp [afterRead, hr]
  have hhigh := nextRead_reference (s := afterRead s c.base (.byte (s.content c.base))) hk hr' (c.base + 1)
  exact ⟨_, (exec_get_of_low hc hlow).trans (getOnHigh_of_byte hhigh), rfl, rfl⟩

/-- The restart of a reference target succeeds, and writes what `allFullOff` says. -/
theorem hostRestart_reference {s t : State} (hk : s.targetKind = .reference) (hw : s.writeAnswers = [])
    (h : hostRestart s = .next t) : t.cellsDraw = s.cellsDraw ∧ ∃ b, t.cells = allFullOff 16 (Memory.write s.cells 0 b) := by
  obtain ⟨r, u, hwrite, rfl⟩ := hostRestart_some h
  obtain ⟨x, hcells⟩ := hostWrite_cells hwrite
  have hku : u.targetKind = .reference := by rw [hostWrite_frame hwrite]; exact hk
  have hdraw : u.cellsDraw = s.cellsDraw := by rw [hostWrite_frame hwrite]
  have hr : s.nextWrite = some r := (hostWrite_some hwrite).1
  rw [nextWrite_reference hk hw, Option.some.injEq] at hr
  subst hr
  exact ⟨(restartedDraw_reference hku s.draw).trans hdraw, x, hcells ▸ restartedCells_reference hku s.draw⟩

/-- The restart of a reference target leaves every register outside the channels but 0x00 as it was. -/
theorem hostRestart_reference_outside {s t : State} (hk : s.targetKind = .reference) (hw : s.writeAnswers = [])
    (h : hostRestart s = .next t) {a : Byte} (ha : 1 ≤ a.toNat ∧ a.toNat ≤ 5 ∨ 0x46 ≤ a.toNat) :
    t.content a = s.content a := by
  obtain ⟨hdraw, b, hcells⟩ := hostRestart_reference hk hw h
  refine content_congr ?_ hdraw
  rw [hcells, allFullOff_other le_rfl _ (by omega), read_write_other (by omega)]

/-- The restart of a reference target puts the full-off payload in every channel's registers. -/
theorem hostRestart_reference_read {s t : State} (hk : s.targetKind = .reference) (hw : s.writeAnswers = [])
    (h : hostRestart s = .next t) {ch i : Nat} (hch : ch < 16) (hi : i < 4) :
    Memory.read t.cells ((baseOf ch).toNat + i) = Payload.fullOff.bytes[i]? := by
  obtain ⟨-, b, hcells⟩ := hostRestart_reference hk hw h
  rw [hcells, baseOf_toNat hch]
  exact allFullOff_read le_rfl _ hch hi

theorem baseOf_succ_toNat {ch : Nat} (h : ch < 16) : (baseOf ch + 1).toNat = (baseOf ch).toNat + 1 := by
  have hbase := baseOf_toNat h
  bv_omega

/-- The raw value 0 decodes to `Ceil(S) + off` (R86). -/
theorem codecDecode_zero (off : Int) {S : Nat} (hS : 1 ≤ S) : codecDecode 0 off S = ceilOf S + off := by
  rw [codecDecode_eq_sub_ceil 0 off hS]
  simp

/-- Settles O53: the restart leaves 0 in both registers of an ON pair, and a GET decodes what the registers hold. -/
theorem restartedReferenceTargetReadsFullOff : Obligations.RestartedReferenceTargetReadsFullOff := by
  intro s t hs hinit hk hw hr h
  have hrestart : hostRestart s = .next t := h
  have hframe := hostRestart_frame hrestart
  have hk' : t.targetKind = .reference := by rw [hframe]; exact hk
  have hr' : t.readAnswers = [] := by rw [hframe]; exact hr
  refine ⟨nextRead_reference hk' hr', fun a ha => hostRestart_reference_outside hk hw hrestart ha, fun ch c hentry => ?_⟩
  have hch := lt_of_entry hentry
  obtain ⟨hbase, hscale⟩ := hs.cal_legal hinit ch c hentry
  have hread {i : Nat} (hi : i < 4) := hostRestart_reference_read hk hw hrestart hch hi
  have hcheck : checkChannel ch t = .ok c := by
    rw [checkChannel_ok_iff, hframe]
    exact ⟨hinit, hentry⟩
  obtain ⟨u, hget, hok, hduty⟩ := exec_get_reference hk' hr' hcheck
  rw [hbase] at hduty ⊢
  have hlow : t.content (baseOf ch) = 0 := content_of_read (hread (i := 0) (by norm_num))
  have hhigh : t.content (baseOf ch + 1) = 0 :=
    content_of_read ((baseOf_succ_toNat hch).symm ▸ hread (i := 1) (by norm_num))
  refine ⟨fun i hi => hread hi, u, hget, hok, ?_⟩
  rw [hduty, hlow, hhigh, CalEntry.decodeRaw]
  exact congrArg (BitVec.ofInt 32) (codecDecode_zero _ (scale_range hscale).1)

/-! A SET and the registers it leaves. -/

/-- A SET that completed without an error left its payload's bytes in its four registers. -/
theorem set_ok_read {ch : Nat} {duty : Int} {s t : State} {c : CalEntry} (hs : s.burstAssured = true)
    (h : exec (.set ch duty) s = .next t) (hok : t.rsp.err = .ok) (hc : s.entry ch = some c) {i : Nat} (hi : i < 4) :
    Memory.read t.cells (c.base.toNat + i) = (c.encodeDuty duty).payload.bytes[i]? := by
  rcases execSet_cases h with ⟨e, hcheck, rfl⟩ | ⟨d, code, mask, u, -, -, rfl⟩ | ⟨d, u, hcheck, hw, rfl⟩
  · exact absurd hok (checkChannel_error_ne hcheck).1
  · cases hok
  · obtain rfl : d = c := Option.some.inj ((entry_of_checkChannel hcheck).symm.trans hc)
    exact memWrite_ok_read_inside hs hw hi

/-- Settles O54: the SET leaves the ON pair in the registers that the GET reads and decodes. -/
theorem setThenGetReturnsDuty : Obligations.SetThenGetReturnsDuty := by
  intro s ch duty c hs hinit hk hw hr hentry hS hc hlow hhigh
  have hcheck : checkChannel ch s = .ok c := checkChannel_ok_iff.mpr ⟨hinit, hentry⟩
  obtain ⟨hbase, hscale⟩ := hs.cal_legal hinit ch c hentry
  have hassured : s.burstAssured = true := by simp [State.burstAssured, hk]
  have hset := exec_set_of_write_ok (duty := duty) hcheck (nextWrite_reference hk hw)
  obtain ⟨u, hget, hok, hduty⟩ := exec_get_reference (ch := ch) (c := c)
    (s := encodedResponse c duty (afterWrite s c.base (c.encodeDuty duty).payload .ok)) hk hr hcheck
  refine ⟨_, u, hset, hget, hok, ?_⟩
  have hread {i : Nat} (hi : i < 4) := set_ok_read hassured hset rfl hentry hi
  have hsucc : (c.base + 1).toNat = c.base.toNat + 1 := hbase.symm ▸ baseOf_succ_toNat (lt_of_entry hentry)
  rw [hduty, content_of_read (hread (i := 0) (by norm_num)), content_of_read (hsucc.symm ▸ hread (i := 1) (by norm_num))]
  exact (decodeFitsResultField c _ hscale (rawOf_lt _ _)).2.2.trans
    (interiorDutyRoundTrips duty c.offset c.scaleNat hS hc hlow hhigh)

/-- A payload whose points do not collide holds two different points, or an override. -/
theorem payload_no_collision {duty off : Int} {S : Nat} (h : (codecEncode duty off S).eq = false) :
    let p := (codecEncode duty off S).payload
    rawOf p.onLo p.onHi % 4096 ≠ rawOf p.offLo p.offHi % 4096 ∨ p.onHi.getLsbD 4 = true ∨ p.offHi.getLsbD 4 = true := by
  cases hc : classOf duty S with
  | fullOff => rw [codecEncode_fullOff off hc]; exact .inr (.inr rfl)
  | fullOn => rw [codecEncode_fullOn off hc]; exact .inr (.inl rfl)
  | interior =>
    refine .inl ?_
    rw [rawOf_onPair off hc, rawOf_offPair off hc, Nat.mod_eq_of_lt (pack12_lt _), Nat.mod_eq_of_lt (pack12_lt _)]
    rw [codecEncode_interior off hc] at h
    exact beq_eq_false_iff_ne.mp h

/-- Settles O55: the response has the payload's flags, and the registers hold its bytes. -/
theorem dutifulSetNeverCollides : Obligations.DutifulSetNeverCollides := by
  intro ch duty s t c hdutiful _ hentry h hok
  obtain ⟨hassured, hflags⟩ := hdutiful
  obtain ⟨heq, hovf⟩ := hflags c hentry
  have hread {i : Nat} (hi : i < 4) := set_ok_read hassured h hok hentry hi
  have hrsp : t.rsp.eq = (c.encodeDuty duty).eq ∧ t.rsp.ovf = (c.encodeDuty duty).ovf := by
    rcases execSet_cases h with ⟨e, hcheck, rfl⟩ | ⟨d, code, mask, u, -, -, rfl⟩ | ⟨d, u, hcheck, hw, rfl⟩
    · exact absurd hok (checkChannel_error_ne hcheck).1
    · cases hok
    · obtain rfl : d = c := Option.some.inj ((entry_of_checkChannel hcheck).symm.trans hentry)
      exact ⟨rfl, rfl⟩
  exact ⟨hrsp.1.trans heq, hrsp.2.trans hovf, _, _, _, _, hread (i := 0) (by norm_num), hread (i := 1) (by norm_num),
    hread (i := 2) (by norm_num), hread (i := 3) (by norm_num), payload_no_collision heq⟩

/-! The boot (R131). -/

/-- The configuration write of a target that answers it well. -/
theorem hostConfigure_of_ok {s : State} (h : s.nextWrite = some .ok) :
    ∃ t, hostConfigure s = .next t ∧ t.autoInc = true := by
  unfold hostConfigure hostWrite
  rw [h]
  exact ⟨_, rfl, rfl⟩

/-- No SET on the default calibration collides or is reduced. -/
theorem encodeDuty_default_no_flags (k : Nat) (duty : Int) :
    ((CalEntry.default k).encodeDuty duty).eq = false ∧ ((CalEntry.default k).encodeDuty duty).ovf = false :=
  codecEncode_no_flags_of_exact_scale (S := 1024) (by norm_num) (by norm_num) (by norm_num) duty

/-- Settles O56: INIT's word runs INIT, and the configuration write that follows leaves the table as INIT left it. -/
theorem bootMakesEverySetDutiful : Obligations.BootMakesEverySetDutiful := by
  intro s rest hhost hw
  have hinit : step s = .next (acknowledge
      { s with host := .configureTarget :: rest, cal := tableOf CalEntry.default, initd := true }) :=
    (step_move hhost).trans (runWord_of_decode (decodeOfEncodeGivesCommandBack .init rfl) _)
  obtain ⟨u, hconf, hauto⟩ := hostConfigure_of_ok (s := acknowledge
    { s with host := rest, cal := tableOf CalEntry.default, initd := true }) hw
  have hframe := hostConfigure_frame hconf
  have hcal : u.cal = tableOf CalEntry.default := by rw [hframe]; rfl
  refine ⟨_, u, hinit, hconf, by rw [hframe]; rfl, by rw [hframe]; rfl, fun k hk => entry_of_table hcal hk,
    fun ch duty => ⟨burstAssured_of_autoInc hauto, fun c hentry => ?_⟩⟩
  rw [entry_of_table hcal (lt_of_entry hentry), Option.some.injEq] at hentry
  rw [← hentry]
  exact encodeDuty_default_no_flags ch duty

end Sys2Proof.Proofs
end

section
/-! PROOFS. The whole machine: every step answers or waits for a transaction that never returns, and a batch is the sequence of
its commands: the obligations O58 and O59. -/

namespace Sys2Proof.Proofs
open Sys2Proof.Machine Sys2Proof.Claims

/-! Progress (R141). -/

/-- The target's script says of some transaction that it never returns (U11). -/
def ScriptsNever (s : State) : Prop := .never ∈ s.writeAnswers ∨ .never ∈ s.readAnswers

/-- An outcome that a machine started in `s` may have: a next state, or the stop in a transaction that never returns. -/
def AnswersOrWaits (s : State) (o : Host.Outcome State Fault Refusal) : Prop :=
  (∃ t, o = .next t) ∨ (o = .fault .neverReturns ∧ ScriptsNever s)

theorem AnswersOrWaits.of_next {s t : State} : AnswersOrWaits s (.next t) := .inl ⟨t, rfl⟩

theorem scriptsNever_of_nextWrite_none {s : State} (h : s.nextWrite = none) : ScriptsNever s :=
  .inl (List.mem_of_mem_head? ((nextWrite_none_iff s).mp h))

theorem scriptsNever_of_nextRead_none {s : State} {a : Byte} (h : s.nextRead a = none) : ScriptsNever s :=
  .inr (List.mem_of_mem_head? ((nextRead_none_iff s a).mp h))

/-- What is left of the script after a read was part of it before. -/
theorem scriptsNever_of_afterRead {s : State} {a : Byte} {r : ReadReply} (h : ScriptsNever (afterRead s a r)) :
    ScriptsNever s :=
  h.imp id List.mem_of_mem_tail

theorem exec_set_answers (ch : Nat) (duty : Int) (s : State) : AnswersOrWaits s (exec (.set ch duty) s) := by
  cases hc : checkChannel ch s with
  | error e => rw [exec_set_of_check_error hc]; exact .of_next
  | ok c =>
    rcases hw : s.nextWrite with _ | ⟨_ | ⟨code, landed⟩⟩
    · exact .inr ⟨exec_set_of_write_never hc hw, scriptsNever_of_nextWrite_none hw⟩
    · rw [exec_set_of_write_ok hc hw]; exact .of_next
    · rw [exec_set_of_write_fail hc hw]; exact .of_next

theorem getOnHigh_answers (c : CalEntry) (lo : Byte) (s : State) : AnswersOrWaits s (getOnHigh c lo s) := by
  rcases hr : s.nextRead (c.base + 1) with _ | ⟨hi | code⟩
  · exact .inr ⟨getOnHigh_of_never hr, scriptsNever_of_nextRead_none hr⟩
  · rw [getOnHigh_of_byte hr]; exact .of_next
  · rw [getOnHigh_of_fail hr]; exact .of_next

theorem exec_get_answers (ch : Nat) (s : State) : AnswersOrWaits s (exec (.get ch) s) := by
  cases hc : checkChannel ch s with
  | error e => rw [exec_get_of_check_error hc]; exact .of_next
  | ok c =>
    rcases hr : s.nextRead c.base with _ | ⟨lo | code⟩
    · exact .inr ⟨exec_get_of_low_never hc hr, scriptsNever_of_nextRead_none hr⟩
    · rw [exec_get_of_low hc hr]
      exact (getOnHigh_answers c lo _).imp_right (And.imp_right scriptsNever_of_afterRead)
    · rw [exec_get_of_low_fail hc hr]; exact .of_next

theorem exec_cfg_answers (ch : Nat) (off : Int) (S : Nat) (s : State) : AnswersOrWaits s (exec (.cfg ch off S) s) := by
  cases hc : checkChannel ch s with
  | error e => rw [exec_cfg_of_check_error hc]; exact .of_next
  | ok c =>
    by_cases hS : BitVec.ofNat 16 S = 0
    · simp only [exec, execCfg, hc, hS, if_true]; exact .of_next
    · rw [exec_cfg_of_scale hc hS]; exact .of_next

theorem exec_answers (i : Instr) (s : State) : AnswersOrWaits s (exec i s) := by
  cases i with
  | init => exact .of_next
  | cfg ch off S => exact exec_cfg_answers ch off S s
  | enc ch duty =>
    cases hc : checkChannel ch s with
    | error e => rw [exec_enc_of_check_error hc]; exact .of_next
    | ok c => rw [exec_enc_of_check_ok hc]; exact .of_next
  | dec ch raw =>
    cases hc : checkChannel ch s with
    | error e => rw [exec_dec_of_check_error hc]; exact .of_next
    | ok c => rw [exec_dec_of_check_ok hc]; exact .of_next
  | set ch duty => exact exec_set_answers ch duty s
  | get ch => exact exec_get_answers ch s

theorem hostWrite_none_iff {b : Byte} {s : State} : hostWrite b s = none ↔ s.nextWrite = none := by
  unfold hostWrite
  cases s.nextWrite <;> simp

theorem hostConfigure_answers (s : State) : AnswersOrWaits s (hostConfigure s) := by
  rcases hw : hostWrite Config.cfgByte s with _ | ⟨_ | ⟨code, landed⟩, u⟩
  · exact .inr ⟨by simp only [hostConfigure, hw], scriptsNever_of_nextWrite_none (hostWrite_none_iff.mp hw)⟩
  · simp only [hostConfigure, hw]; exact .of_next
  · simp only [hostConfigure, hw]; exact .of_next

theorem hostRestart_answers (s : State) : AnswersOrWaits s (hostRestart s) := by
  rcases hw : hostWrite Config.resetByte s with _ | ⟨r, u⟩
  · exact .inr ⟨by simp only [hostRestart, hw], scriptsNever_of_nextWrite_none (hostWrite_none_iff.mp hw)⟩
  · simp only [hostRestart, hw]; exact .of_next

theorem applyMove_answers (m : HostMove) (s : State) : AnswersOrWaits s (applyMove m s) := by
  cases m with
  | command w =>
    cases hd : decode w with
    | command i => rw [applyMove, runWord_of_decode hd]; exact exec_answers i s
    | illegal why => rw [applyMove, runWord_illegal hd]; exact .of_next
  | resetBlock => exact .of_next
  | configureTarget => exact hostConfigure_answers s
  | restartTarget => exact hostRestart_answers s

theorem step_answers (s : State) : AnswersOrWaits s (step s) := by
  cases hhost : s.host with
  | nil => rw [step_idle hhost]; exact .of_next
  | cons m rest => rw [step_move hhost]; exact applyMove_answers m _

/-- Settles O58: a step answers or waits for a transaction of which the script says that it never returns. -/
theorem everyStepAnswers : Obligations.EveryStepAnswers := by
  intro s
  rcases step_answers s with hnext | ⟨hfault, hnever⟩
  · exact ⟨by obtain ⟨t, ht⟩ := hnext; rw [ht]; rfl, fun _ _ => hnext⟩
  · exact ⟨by rw [hfault]; rfl, fun hw hr => absurd hnever (not_or.mpr ⟨hw, hr⟩)⟩

/-! Sequences of commands (R97, R99). -/

theorem addResponse_eq_next_iff {r : Rsp} {o : Host.Outcome (State × List Rsp) Fault Refusal} {t : State} {rs : List Rsp} :
    addResponse r o = .next (t, rs) ↔ ∃ qs, o = .next (t, qs) ∧ rs = r :: qs := by
  rcases o with ⟨u, qs⟩ | f | f <;> simp [addResponse, eq_comm]

/-- A sequence completes exactly when its first command completes and the rest does, from where that one ended. -/
theorem issueAll_cons_iff {i : Instr} {is : List Instr} {s t : State} {rs : List Rsp} :
    issueAll (i :: is) s = .next (t, rs) ↔
      ∃ u qs, issue i s = .next u ∧ issueAll is u = .next (t, qs) ∧ rs = u.rsp :: qs := by
  rw [issueAll]
  cases hi : issue i s <;> simp [addResponse_eq_next_iff]

/-- A sequence in two parts completes exactly when the first part does and the second does, from where the first ended. -/
theorem issueAll_append_iff {is js : List Instr} {s u : State} {ps : List Rsp} :
    issueAll (is ++ js) s = .next (u, ps) ↔
      ∃ t rs qs, issueAll is s = .next (t, rs) ∧ issueAll js t = .next (u, qs) ∧ ps = rs ++ qs := by
  induction is generalizing s ps with
  | nil => simp [issueAll]
  | cons i is ih =>
    simp only [List.cons_append, issueAll_cons_iff, ih]
    constructor
    · rintro ⟨v, _, hi, ⟨t, rs, qs, his, hjs, rfl⟩, rfl⟩
      exact ⟨t, _, qs, ⟨v, rs, hi, his, rfl⟩, hjs, rfl⟩
    · rintro ⟨t, _, qs, ⟨v, rs, hi, his, rfl⟩, hjs, rfl⟩
      exact ⟨v, _, hi, ⟨t, rs, qs, his, hjs, rfl⟩, rfl⟩

/-- One response for each command. -/
theorem issueAll_length {is : List Instr} {s t : State} {rs : List Rsp} (h : issueAll is s = .next (t, rs)) :
    rs.length = is.length := by
  induction is generalizing s rs with
  | nil => cases h; rfl
  | cons i is ih =>
    obtain ⟨u, qs, -, hrest, rfl⟩ := issueAll_cons_iff.mp h
    simp [ih hrest]

/-! The batches (R97, R98). -/

theorem runSetn_eq (cs : List Nat) (ds : List Int) (s : State) :
    runSetn cs ds s = if cs.length = ds.length then some (issueAll (List.zipWith Instr.set cs ds) s) else none := by
  unfold runSetn expandSetn
  split <;> rfl

/-- The GETs before the `i`-th, the `i`-th, and those after it. -/
theorem expandGetn_split {cs : List Nat} {i : Nat} (h : i < cs.length) :
    expandGetn cs = expandGetn (cs.take i) ++ .get cs[i] :: expandGetn (cs.drop (i + 1)) := by
  conv_lhs => rw [← List.take_append_drop i cs, List.drop_eq_getElem_cons h]
  exact List.map_append

/-- Slot `i` of a GETN's buffer is the duty of its `i`-th GET, run where the ones before it ended. -/
theorem runGetn_slot {cs : List Nat} {s t : State} {rs : List Rsp} (h : runGetn cs s = .next (t, rs)) {i : Nat}
    (hi : i < cs.length) : ∃ t' rs' u, runGetn (cs.take i) s = .next (t', rs') ∧ issue (.get cs[i]) t' = .next u ∧
      (outputBuffer rs)[i]? = some u.rsp.duty := by
  rw [runGetn, expandGetn_split hi] at h
  obtain ⟨t', rs', ps, hbefore, hrest, rfl⟩ := issueAll_append_iff.mp h
  obtain ⟨u, qs, hget, -, rfl⟩ := issueAll_cons_iff.mp hrest
  have hlength : rs'.length = i := by
    rw [issueAll_length hbefore, expandGetn, List.length_map, List.length_take_of_le hi.le]
  refine ⟨t', rs', u, hbefore, hget, ?_⟩
  simp [outputBuffer, ← hlength]

/-- Settles O59, by how a sequence of commands is split in two. -/
theorem batchIsItsSequence : Obligations.BatchIsItsSequence := by
  refine ⟨runSetn_eq, fun is js s t rs h => ⟨issueAll_length h, fun u qs hjs => ?_⟩, fun cs s t rs h => ⟨?_, fun i hi => ?_⟩⟩
  · exact issueAll_append_iff.mpr ⟨t, rs, qs, h, hjs, rfl⟩
  · rw [outputBuffer, List.length_map, issueAll_length h, expandGetn, List.length_map]
  · exact runGetn_slot h hi

end Sys2Proof.Proofs
end
